-- ==== Sys2Proof/Word.lean ====
section
/-! DEFINITION. The word types of the block (spec/00_scope.md R9, R10): every state word, operand, table word and
result is an unsigned 64-bit word, an opcode is a byte, and the block groups words by four (XS.s[0..3], d[0..3],
JUMP_TABLE[0..3]). `+`, `*`, `^^^`, `|||`, `&&&`, `<<<` and `>>>` of BitVec 64 are the wrapping and logical
operations of R10. -/

namespace Sys2Proof

/-- A 64-bit word; bit k has weight 2^k (R9). -/
abbrev Word := BitVec 64

/-- An opcode byte. -/
abbrev Byte := BitVec 8

/-- Four words indexed 0 to 3: a Xoshiro256+ state (R16), the operand slots d[0..3] (R37), a jump table (R62). -/
structure Quad where
  w0 : Word
  w1 : Word
  w2 : Word
  w3 : Word
deriving DecidableEq, Repr

/-- The four words zero. -/
def Quad.zero : Quad := ⟨0, 0, 0, 0⟩

/-- Word-wise XOR of four words (R63: `^` on states). -/
def Quad.xor (a b : Quad) : Quad :=
  ⟨a.w0 ^^^ b.w0, a.w1 ^^^ b.w1, a.w2 ^^^ b.w2, a.w3 ^^^ b.w3⟩

end Sys2Proof
end

