-- ==== Sys2Proof/Syntax.lean ====
section
/-! DEFINITION. Commands as presented (spec/30_encoding.md R37) and the decoded instructions: one constructor per row
of spec/opcode_table.json (R42). -/

namespace Sys2Proof

/-- One transaction on the command port (R37): the opcode byte and the four operand slots d[0..3]. -/
structure Command where
  op : Byte
  d  : Quad
deriving DecidableEq, Repr

/-- The legal commands (R42) with the operand words each reads (R39). -/
inductive Instr where
  /-- SM_SEED v (0x01, R52): v = d[0]. -/
  | smSeed (v : Word)
  /-- SM_NEXT (0x02, R53). -/
  | smNext
  /-- SM_NEXT_DOUBLE (0x03, R54). -/
  | smNextDouble
  /-- SM_READ (0x04, R74). -/
  | smRead
  /-- XS_SEED a, b, c, e (0x11, R58): d[0], d[1], d[2], d[3] for s0, s1, s2, s3. -/
  | xsSeed (a b c e : Word)
  /-- XS_NEXT (0x12, R59). -/
  | xsNext
  /-- XS_NEXT_DOUBLE (0x13, R60). -/
  | xsNextDouble
  /-- XS_READ 0 (0x14, R75). -/
  | xsRead0
  /-- XS_READ 1 (0x34, R75). -/
  | xsRead1
  /-- XS_READ 2 (0x54, R75). -/
  | xsRead2
  /-- XS_READ 3 (0x74, R75). -/
  | xsRead3
  /-- XS_JUMP (0x15, R65). -/
  | xsJump
  /-- XS_LONG_JUMP (0x16, R66). -/
  | xsLongJump
deriving DecidableEq, Repr

end Sys2Proof
end

