-- ==== Sys2Proof/WellFormed.lean ====
section
/-! DEFINITION. When an opcode byte is one of the legal thirteen, as checks on its fields (spec/30_encoding.md R38,
R44), written with division and remainder so that they stand apart from the decoder's bit fields. An `Instr` needs no
check of its own: its operands are whole words and any word is legal (R39, R52, R58). The host's command-list syntax
has its own checks in Machine/Assembler.lean (R46). -/

namespace Sys2Proof

/-- op[7] must be 0 (R38). -/
def Command.reservedClear (c : Command) : Bool := c.op.toNat / 128 == 0

/-- F names a function of the generator G: 1 to 4 for SplitMix64, 1 to 6 for Xoshiro256+ (R38, R42). -/
def Command.functionLegal (c : Command) : Bool :=
  let f := c.op.toNat % 16
  let g := c.op.toNat / 16 % 2
  1 ≤ f && f ≤ (if g = 0 then 4 else 6)

/-- W is 00 except in XS_READ, G = 1 and F = 4 (R38). -/
def Command.wordIndexLegal (c : Command) : Bool :=
  c.op.toNat / 32 % 4 == 0 || c.op.toNat % 32 == 20

/-- A command whose byte is in R42. -/
def Command.wellFormed (c : Command) : Bool :=
  c.reservedClear && c.functionLegal && c.wordIndexLegal

end Sys2Proof
end

