-- ==== Sys2Proof/Decode.lean ====
section
/-! DEFINITION. The decoder (spec/30_encoding.md R38, R43), total on the 256 bytes, with `none` for Illegal; the
encoder (R42, R49); and the host's numbering of a command's bits. -/

namespace Sys2Proof

/-- F = op[3:0] (R38). -/
def opF (op : Byte) : Nat := (op.extractLsb' 0 4).toNat
/-- G = op[4] (R38): false for SplitMix64, true for Xoshiro256+. -/
def opG (op : Byte) : Bool := op.getLsbD 4
/-- W = op[6:5], zero-extended (R38, R39). -/
def opW (op : Byte) : Nat := (op.extractLsb' 5 2).toNat

/-- The constructor of XS_READ w for w = zext(W), which is below 4 (R39, R75). -/
def xsReadOf (w : Nat) : Instr :=
  match w with
  | 0 => .xsRead0
  | 1 => .xsRead1
  | 2 => .xsRead2
  | _ => .xsRead3

/-- The SplitMix64 half of R43, for W = 00. -/
def decodeSm (f : Nat) (d : Quad) : Option Instr :=
  match f with
  | 1 => some (.smSeed d.w0)
  | 2 => some .smNext
  | 3 => some .smNextDouble
  | 4 => some .smRead
  | _ => none

/-- The Xoshiro256+ half of R43. -/
def decodeXs (f w : Nat) (d : Quad) : Option Instr :=
  match f with
  | 1 => if w = 0 then some (.xsSeed d.w0 d.w1 d.w2 d.w3) else none
  | 2 => if w = 0 then some .xsNext else none
  | 3 => if w = 0 then some .xsNextDouble else none
  | 4 => some (xsReadOf w)
  | 5 => if w = 0 then some .xsJump else none
  | 6 => if w = 0 then some .xsLongJump else none
  | _ => none

/-- The decoder of R43. Which instruction it gives depends on `op` alone; the operand words pass through (R49). -/
def decode (c : Command) : Option Instr :=
  if c.op.getLsbD 7 then none
  else if opG c.op then decodeXs (opF c.op) (opW c.op) c.d
  else if opW c.op = 0 then decodeSm (opF c.op) c.d
  else none

/-- The opcode byte of an instruction's row in R42. -/
def encodeOp (i : Instr) : Byte :=
  match i with
  | .smSeed _ => 0x01
  | .smNext => 0x02
  | .smNextDouble => 0x03
  | .smRead => 0x04
  | .xsSeed _ _ _ _ => 0x11
  | .xsNext => 0x12
  | .xsNextDouble => 0x13
  | .xsRead0 => 0x14
  | .xsRead1 => 0x34
  | .xsRead2 => 0x54
  | .xsRead3 => 0x74
  | .xsJump => 0x15
  | .xsLongJump => 0x16

/-- The operand slots of an instruction; the slots it does not read are zero (notes/assumptions/13.md). -/
def encodeOperands (i : Instr) : Quad :=
  match i with
  | .smSeed v => ⟨v, 0, 0, 0⟩
  | .xsSeed a b c e => ⟨a, b, c, e⟩
  | .smNext | .smNextDouble | .smRead | .xsNext | .xsNextDouble
  | .xsRead0 | .xsRead1 | .xsRead2 | .xsRead3 | .xsJump | .xsLongJump => Quad.zero

/-- The encoder of R49. -/
def encode (i : Instr) : Command := ⟨encodeOp i, encodeOperands i⟩

/-- The command whose bits are `w`, of which `nbits` are given and the rest are 0: bits 7..0 are the opcode byte, and
operand word k is the 64 bits from bit 8 + 64 k on (notes/assumptions/7.md). -/
def commandOfBits (nbits w : Nat) : Command :=
  let v := w % 2 ^ nbits
  ⟨BitVec.ofNat 8 v,
   ⟨BitVec.ofNat 64 (v / 2 ^ 8), BitVec.ofNat 64 (v / 2 ^ 72), BitVec.ofNat 64 (v / 2 ^ 136),
    BitVec.ofNat 64 (v / 2 ^ 200)⟩⟩

/-- The instruction the decoder reads from an opcode-table word. -/
def decodeTableWord (nbits w : Nat) : Option Instr := decode (commandOfBits nbits w)

end Sys2Proof
end

