-- ==== Sys2Proof/Config.lean ====
section
/-! DEFINITION. The block's fixed parameters (spec/00_scope.md R7: "All are exact, and a model must use them as
given") and the model's one family of free values. LAT(op), SERIAL_ENCODING and N_INSTANCES (R8) are not here: no
meaning reads them (notes/assumptions/10.md, 11.md). -/

namespace Sys2Proof

/-- SM_GAMMA (R7). -/
def Config.smGamma : Word := 0x9E3779B97F4A7C15
/-- SM_MUL1 (R7). -/
def Config.smMul1 : Word := 0xBF58476D1CE4E5B9
/-- SM_MUL2 (R7). -/
def Config.smMul2 : Word := 0x94D049BB133111EB
/-- SM_SH1 (R7). -/
def Config.smSh1 : Nat := 30
/-- SM_SH2 (R7). -/
def Config.smSh2 : Nat := 27
/-- SM_SH3 (R7). -/
def Config.smSh3 : Nat := 31
/-- XS_A, the left shift of s1 (R7). -/
def Config.xsA : Nat := 17
/-- XS_B, the left rotation of s3 (R7). -/
def Config.xsB : Nat := 45
/-- JUMP_TABLE (R7, R62). -/
def Config.jumpTable : Quad :=
  ⟨0x180ec6d33cfd0aba, 0xd5a61266f0c9392c, 0xa9582618e03fc9aa, 0x39abdc4529b1661c⟩
/-- LONG_JUMP_TABLE (R7, R62). -/
def Config.longJumpTable : Quad :=
  ⟨0x76e15d3efefdcbbf, 0xc5004e441c522fb3, 0x77710069854ee241, 0x39109bb02acbe635⟩
/-- JUMP_BITS, the internal steps of a jump (R7). -/
def Config.jumpBits : Nat := 256
/-- ONE_BITS, the binary64 pattern of 1.0 (R7). -/
def Config.oneBits : Word := 0x3FF0000000000000
/-- CVT_SHIFT (R7). -/
def Config.cvtShift : Nat := 12

/-- FREE VALUES: what a state word holds after a reset assertion is unspecified (R27, R87; I14 "any value"). The
argument numbers the free value; nothing constrains it. Every history and every instance draws on this one sequence
(DESIGN CHOICE, notes/assumptions/3.md). -/
opaque Config.resetWord : Nat → Word

end Sys2Proof
end

