-- ==== Sys2Proof/Machine/State.lean ====
section
/-! DEFINITION. The block's state (spec/10_state.md), the inputs the host has presented, and what a step can answer.
The block has no program counter, flag, control register, register file or memory (R21 to R24, R28), so State has
none. -/

namespace Sys2Proof.Machine

/-- The two generators (R38, field G). -/
inductive Gen where
  /-- SplitMix64. -/
  | sm
  /-- Xoshiro256+. -/
  | xs
deriving DecidableEq, Repr

/-- What the sticky fault record can hold (R26, R77). -/
inductive FaultRecord where
  /-- A byte that names no operation, with the byte (R78). -/
  | illegalCommand (op : Byte)
  /-- A generator's state was read before any seed (R20, R79). -/
  | unseeded (gen : Gen)
deriving DecidableEq, Repr

/-- The response statuses the block returns (R40); codes 2 and 3 are never returned, so they have no constructor. -/
inductive Status where
  /-- Code 0: the command was legal and executed. -/
  | ok
  /-- Code 1: the opcode byte is not in R42. -/
  | illegal
deriving DecidableEq, Repr

/-- A response (R37). -/
structure Response where
  /-- `none` where R77 leaves the status "not defined (model only)": after Unseeded. -/
  status : Option Status
  /-- `none` where the result word is not driven (R41). -/
  r : Option Word
deriving DecidableEq, Repr

/-- What the host can present to the block. -/
inductive Input where
  /-- A command (R37). -/
  | command (c : Command)
  /-- Reset asserted between commands (R87). -/
  | reset
  /-- Reset asserted while the command executes, which abandons it (R88). -/
  | resetDuring (c : Command)
deriving DecidableEq, Repr

/-- Everything the spec gives the block, and the model's own index of free values. -/
structure State where
  /-- SM.s, the SplitMix64 state word (R15). -/
  smS : Word
  /-- XS.s[0..3], the Xoshiro256+ state words (R16). -/
  xsS : Quad
  /-- SM.w, SplitMix64 seeded since reset (R19). -/
  smW : Bool
  /-- XS.w, Xoshiro256+ seeded since reset (R19). -/
  xsW : Bool
  /-- The sticky fault record (R26). -/
  fault : Option FaultRecord
  /-- The response port: the response to the last command, or no response pending (R27, R37). -/
  response : Option Response
  /-- Inputs presented and not yet accepted, oldest first (R37, R91; notes/assumptions/7.md). -/
  inputs : List Input
  /-- The model's own: numbers the free values of `Config.resetWord` (notes/assumptions/3.md). -/
  freeIndex : Nat
deriving DecidableEq, Repr

/-- Why a step stops with a fault. -/
inductive Fault where
  /-- Raised by `step` when no input is presented: the run has ended (R95), and the spec does not say "what the block
  does between commands". Safe: the model says nothing of an idle block (notes/assumptions/1.md). -/
  | noInput
deriving DecidableEq, Repr

/-- Why a step refuses. -/
inductive Refusal where
  /-- Raised by an arm of `exec` for an instruction that has no meaning yet; no arm does. Safe. -/
  | notModelled (mnemonic : String)
deriving DecidableEq, Repr

/-- The state right after reset (R27, R87). The state words are unspecified there; zero is the model's choice, and no
command reads it before a seed (notes/assumptions/2.md). -/
def State.reset : State where
  smS := 0
  xsS := Quad.zero
  smW := false
  xsW := false
  fault := none
  response := none
  inputs := []
  freeIndex := 0

end Sys2Proof.Machine
end

