-- ==== Sys2Proof/Machine/Flags.lean ====
section
/-! DEFINITION. The block has no flags and no condition codes (spec/10_state.md R22). What it reports is a response
status (spec/30_encoding.md R40), and the model keeps a sticky fault record (R26, R77). This file holds their codes
and the two updates. -/

namespace Sys2Proof.Machine

/-- The 2-bit code of a status (R40). -/
def statusCode (st : Status) : BitVec 2 :=
  match st with
  | .ok => 0
  | .illegal => 1

/-- The fault code of a record (R77). -/
def faultCode (f : FaultRecord) : Nat :=
  match f with
  | .illegalCommand _ => 1
  | .unseeded .sm => 2
  | .unseeded .xs => 3

/-- The first fault is kept (R26, R81). -/
def keepFirst (old : Option FaultRecord) (f : FaultRecord) : Option FaultRecord :=
  match old with
  | none => some f
  | some g => some g

/-- OK, with the result word or nothing driven (R40, R41). -/
def okResponse (r : Option Word) : Response := ⟨some .ok, r⟩

/-- ILLEGAL: r is not driven (R41, R78). -/
def illegalResponse : Response := ⟨some .illegal, none⟩

/-- After Unseeded the model gives no status and no result (R20, R77; notes/assumptions/4.md). -/
def unseededResponse : Response := ⟨none, none⟩

end Sys2Proof.Machine
end

