-- ==== Sys2Proof/Machine/Operands.lean ====
section
/-! DEFINITION. Operand and state-word selection (spec/30_encoding.md R39): operand words are used verbatim, and a
word index selects one of four words. -/

namespace Sys2Proof.Machine

/-- Word `w` of four words: XS.s[w] (R16, R75), TABLE[w] (R62). -/
def wordAt (q : Quad) (w : Fin 4) : Word :=
  match w with
  | 0 => q.w0
  | 1 => q.w1
  | 2 => q.w2
  | 3 => q.w3

end Sys2Proof.Machine
end

