-- ==== Sys2Proof/Machine/Ops.lean ====
section
/-! DEFINITION. The named operations the meanings share: reading and writing a generator's state, completing a
command, the two fault outcomes, reset, and putting a command on the port. -/

namespace Sys2Proof.Machine

/-- What a step answers. -/
abbrev Result := Host.Outcome State Fault Refusal

/-- `rotl(a, k)` of R10, for 1 ≤ k ≤ 63. -/
def rotl (a : Word) (k : Nat) : Word := (a <<< k) ||| (a >>> (64 - k))

/-- `SM.s <- v` (R12). -/
def State.putSm (v : Word) (s : State) : State := { s with smS := v }

/-- `XS.s <- q`, the four words in one update (R12, R30). -/
def State.putXs (q : Quad) (s : State) : State := { s with xsS := q }

/-- `SM.w <- true` (R19). -/
def State.markSm (s : State) : State := { s with smW := true }

/-- `XS.w <- true` (R19). -/
def State.markXs (s : State) : State := { s with xsW := true }

/-- The response port takes the command's response (R37). -/
def State.respond (r : Response) (s : State) : State := { s with response := some r }

/-- `raise f`: the record takes the first fault of a run (R26). -/
def State.record (f : FaultRecord) (s : State) : State := { s with fault := keepFirst s.fault f }

/-- `status <- OK` and `r` driven with a word, or not driven (R40, R41). -/
def complete (r : Option Word) (s : State) : Result := .next (s.respond (okResponse r))

/-- The outcome IllegalCommand(op) (R78): status ILLEGAL, no state change, the record set if it is none. The block
then accepts the next command (R84), so this is a next state. -/
def takeIllegal (op : Byte) (s : State) : Result :=
  .next ((s.record (.illegalCommand op)).respond illegalResponse)

/-- The outcome Unseeded(gen) (R20, R79): no state change, no result, the record set if it is none. A later command
runs as its rule gives (spec/95_test_vectors.md P6), so this is a next state. -/
def takeUnseeded (gen : Gen) (s : State) : Result :=
  .next ((s.record (.unseeded gen)).respond unseededResponse)

/-- `sm_check()` and then the read of SM.s (R50). -/
def withSm (s : State) (k : Word → Result) : Result :=
  if s.smW then k s.smS else takeUnseeded .sm s

/-- `xs_check()` and then the read of XS.s (R56). -/
def withXs (s : State) (k : Quad → Result) : Result :=
  if s.xsW then k s.xsS else takeUnseeded .xs s

/-- Reset asserted (R27, R87, R88): both written flags false, no fault, no response pending. The five state words
become unspecified: each takes a free value of its own. DESIGN CHOICE (notes/assumptions/3.md): the free values are
numbered by `freeIndex` alone, so two histories or two instances (R82) whose indexes agree get equal words, a relation
the spec does not state. `rest` is what is presented after. -/
def State.applyReset (rest : List Input) (s : State) : State where
  smS := Config.resetWord s.freeIndex
  xsS := ⟨Config.resetWord (s.freeIndex + 1), Config.resetWord (s.freeIndex + 2),
          Config.resetWord (s.freeIndex + 3), Config.resetWord (s.freeIndex + 4)⟩
  smW := false
  xsW := false
  fault := none
  response := none
  inputs := rest
  freeIndex := s.freeIndex + 5

/-- The state with `inputs` left to accept. -/
def State.awaiting (inputs : List Input) (s : State) : State := { s with inputs := inputs }

/-- The state in which `c` is the next command the port accepts. -/
def State.offer (c : Command) (s : State) : State := s.awaiting (.command c :: s.inputs)

end Sys2Proof.Machine
end

