-- ==== Sys2Proof/Machine/Converter.lean ====
section
/-! DEFINITION. The IEEE-double converter (spec/43_double_converter.md) and the binary64 layout its claims are read
through (R69). The block holds no floating-point value: results are bit patterns (R14, R72). -/

namespace Sys2Proof.Machine

/-- m = x[63:12] (R70). -/
def cvtMantissa (x : Word) : Word := x >>> Config.cvtShift

/-- `to_unit_double(x)` (R70): the highest set bit `e` of m is its base-2 logarithm, rounded down. -/
def toUnitDouble (x : Word) : Word :=
  let m := cvtMantissa x
  if m = 0 then 0
  else
    let e := m.toNat.log2
    (BitVec.ofNat 64 (e + 971) <<< 52) ||| ((m <<< (52 - e)) &&& 0x000FFFFFFFFFFFFF)

/-- The bit pattern the source's construction reinterprets, before it subtracts 1.0 (R71 step 1). -/
def sourcePattern (x : Word) : Word := (x >>> Config.cvtShift) ||| Config.oneBits

/-- Bit 63 (R69). -/
def binary64Sign (b : Word) : Bool := b.getLsbD 63
/-- The biased exponent, bits 62:52 (R69). -/
def binary64Exponent (b : Word) : Nat := (b.extractLsb' 52 11).toNat
/-- The fraction, bits 51:0 (R69). -/
def binary64Fraction (b : Word) : Nat := (b.extractLsb' 0 52).toNat

/-- The value of a pattern where R69 gives one: normal numbers and the all-zero pattern. -/
def binary64Value (b : Word) : Option ℚ :=
  let e := binary64Exponent b
  if b = 0 then some 0
  else if 1 ≤ e ∧ e ≤ 2046 then
    some ((if binary64Sign b then -1 else 1) * (2 : ℚ) ^ ((e : ℤ) - 1023)
      * (1 + (binary64Fraction b : ℚ) / 2 ^ 52))
  else none

end Sys2Proof.Machine
end

