-- ==== Sys2Proof/Machine/Xoshiro.lean ====
section
/-! DEFINITION. Xoshiro256+ (spec/41_xoshiro256plus.md): the step and the meanings of XS_SEED, XS_NEXT and
XS_NEXT_DOUBLE. -/

namespace Sys2Proof.Machine

/-- `xs_step(s0, s1, s2, s3)` (R57), its lines in order, each seeing what the earlier ones assigned (R11): the new
state and the result. -/
def xsStep (s : Quad) : Quad × Word :=
  let s0 := s.w0
  let s1 := s.w1
  let s2 := s.w2
  let s3 := s.w3
  let result := s0 + s3
  let t := s1 <<< Config.xsA
  let s2 := s2 ^^^ s0
  let s3 := s3 ^^^ s1
  let s1 := s1 ^^^ s2
  let s0 := s0 ^^^ s3
  let s2 := s2 ^^^ t
  let s3 := rotl s3 Config.xsB
  (⟨s0, s1, s2, s3⟩, result)

/-- The state update of the step, without its output. -/
def xsAdvance (s : Quad) : Quad := (xsStep s).1

/-- XS_SEED a, b, c, e (R58): the four words in one update. -/
def execXsSeed (a b c e : Word) (s : State) : Result :=
  complete none (s.putXs ⟨a, b, c, e⟩).markXs

/-- XS_NEXT (R59). -/
def execXsNext (s : State) : Result :=
  withXs s fun q =>
    let n := xsStep q
    complete (some n.2) (s.putXs n.1)

/-- XS_NEXT_DOUBLE (R60). -/
def execXsNextDouble (s : State) : Result :=
  withXs s fun q =>
    let n := xsStep q
    complete (some (toUnitDouble n.2)) (s.putXs n.1)

end Sys2Proof.Machine
end

