-- ==== Sys2Proof/Machine/JumpEngine.lean ====
section
/-! DEFINITION. The jump engine (spec/42_jump_engine.md) and the meanings of XS_JUMP and XS_LONG_JUMP. The engine's
state exists only inside one command and is unobservable (spec/10_state.md R25), so it is the value the engine runs
on and no field of State (notes/assumptions/8.md). -/

namespace Sys2Proof.Machine

/-- The engine's state inside one jump (R25, R63). -/
structure JumpEngine where
  /-- The accumulator A. -/
  acc : Quad
  /-- The position of the bit visited next, 0 to 255. -/
  pos : Nat
  /-- The working state S. -/
  work : Quad
deriving DecidableEq, Repr

/-- The k-th bit visited, `TABLE[k div 64][k mod 64]` (R62). -/
def tableBit (table : Quad) (k : Nat) : Bool :=
  (wordAt table (Fin.ofNat 4 (k / 64))).getLsbD (k % 64)

/-- A is zero, and the engine stands at bit 0 (R63). -/
def jumpStart (q : Quad) : JumpEngine := ⟨Quad.zero, 0, q⟩

/-- One pass of R63's inner loop: the accumulation sees the working state before this pass's step. -/
def jumpTick (table : Quad) (e : JumpEngine) : JumpEngine :=
  { acc := if tableBit table e.pos then e.acc.xor e.work else e.acc
    pos := e.pos + 1
    work := xsAdvance e.work }

/-- `n` passes. -/
def jumpTicks (table : Quad) (n : Nat) (e : JumpEngine) : JumpEngine :=
  match n with
  | 0 => e
  | k + 1 => jumpTicks table k (jumpTick table e)

/-- `jump_engine(S, T)` (R63): the accumulator after exactly 256 passes. -/
def jumpEngine (q table : Quad) : Quad := (jumpTicks table Config.jumpBits (jumpStart q)).acc

/-- XS_JUMP (R65). -/
def execXsJump (s : State) : Result :=
  withXs s fun q => complete none (s.putXs (jumpEngine q Config.jumpTable))

/-- XS_LONG_JUMP (R66). -/
def execXsLongJump (s : State) : Result :=
  withXs s fun q => complete none (s.putXs (jumpEngine q Config.longJumpTable))

end Sys2Proof.Machine
end

