-- ==== Sys2Proof/Machine/SplitMix.lean ====
section
/-! DEFINITION. SplitMix64 (spec/40_splitmix64.md): the step and the meanings of SM_SEED, SM_NEXT and
SM_NEXT_DOUBLE. -/

namespace Sys2Proof.Machine

/-- The output mix, lines 2 to 5 of R51. The constant of each product and sum stands first (both commute): a literal in
second place makes Lean's kernel count it down when it compares terms. -/
def smMix (x : Word) : Word :=
  let z := x
  let z := Config.smMul1 * (z ^^^ (z >>> Config.smSh1))
  let z := Config.smMul2 * (z ^^^ (z >>> Config.smSh2))
  z ^^^ (z >>> Config.smSh3)

/-- `sm_step(s)` (R51): the new state and the output, which is computed from the new state. -/
def smStep (s : Word) : Word × Word :=
  let s' := Config.smGamma + s
  (s', smMix s')

/-- SM_SEED v (R52). -/
def execSmSeed (v : Word) (s : State) : Result :=
  complete none (s.putSm v).markSm

/-- SM_NEXT (R53). -/
def execSmNext (s : State) : Result :=
  withSm s fun x =>
    let n := smStep x
    complete (some n.2) (s.putSm n.1)

/-- SM_NEXT_DOUBLE (R54). -/
def execSmNextDouble (s : State) : Result :=
  withSm s fun x =>
    let n := smStep x
    complete (some (toUnitDouble n.2)) (s.putSm n.1)

end Sys2Proof.Machine
end

