-- ==== Sys2Proof/Machine/StateAccess.lean ====
section
/-! DEFINITION. State read-back (spec/44_state_access.md): the meanings of SM_READ and XS_READ 0..3. -/

namespace Sys2Proof.Machine

/-- SM_READ (R74). -/
def execSmRead (s : State) : Result :=
  withSm s fun x => complete (some x) s

/-- XS_READ w, for the four rows below (R75). -/
def readXsWord (w : Fin 4) (s : State) : Result :=
  withXs s fun q => complete (some (wordAt q w)) s

/-- XS_READ 0 (R75). -/
def execXsRead0 (s : State) : Result := readXsWord 0 s
/-- XS_READ 1 (R75). -/
def execXsRead1 (s : State) : Result := readXsWord 1 s
/-- XS_READ 2 (R75). -/
def execXsRead2 (s : State) : Result := readXsWord 2 s
/-- XS_READ 3 (R75). -/
def execXsRead3 (s : State) : Result := readXsWord 3 s

end Sys2Proof.Machine
end

