-- ==== Sys2Proof/Machine/Dispatch.lean ====
section
/-! DEFINITION. One arm per instruction: a direct call of its meaning. -/

namespace Sys2Proof.Machine

def exec (i : Instr) (s : State) : Host.Outcome State Fault Refusal :=
  match i with
  | .smSeed v => Sys2Proof.Machine.execSmSeed v s
  | .smNext => Sys2Proof.Machine.execSmNext s
  | .smNextDouble => Sys2Proof.Machine.execSmNextDouble s
  | .smRead => Sys2Proof.Machine.execSmRead s
  | .xsSeed a b c e => Sys2Proof.Machine.execXsSeed a b c e s
  | .xsNext => Sys2Proof.Machine.execXsNext s
  | .xsNextDouble => Sys2Proof.Machine.execXsNextDouble s
  | .xsRead0 => Sys2Proof.Machine.execXsRead0 s
  | .xsRead1 => Sys2Proof.Machine.execXsRead1 s
  | .xsRead2 => Sys2Proof.Machine.execXsRead2 s
  | .xsRead3 => Sys2Proof.Machine.execXsRead3 s
  | .xsJump => Sys2Proof.Machine.execXsJump s
  | .xsLongJump => Sys2Proof.Machine.execXsLongJump s

end Sys2Proof.Machine
end

