-- ==== Sys2Proof/Machine/Port.lean ====
section
/-! DEFINITION. The command port (spec/30_encoding.md R37; spec/70_reset_and_hazards.md R91): what accepting one
input does. -/

namespace Sys2Proof.Machine

/-- A command accepted: the decode check comes before the command's own written-flag check (R43, R78, R81). -/
def runCommand (c : Command) (s : State) : Result :=
  match decode c with
  | some i => exec i s
  | none => takeIllegal c.op s

/-- One input accepted, the inputs behind it still waiting (R29, R91): a command, a reset (R87), or a reset that
abandons the command executing (R88). -/
def acceptInput (input : Input) (rest : List Input) (s : State) : Result :=
  match input with
  | .command c => runCommand c (s.awaiting rest)
  | .reset => .next (s.applyReset rest)
  | .resetDuring _ => .next (s.applyReset rest)

/-- No input is presented: the run has ended (R95; notes/assumptions/1.md). -/
def noInputPresented : Result := .fault .noInput

end Sys2Proof.Machine
end

