-- ==== Sys2Proof/Machine/Step.lean ====
section
/-! DEFINITION. One step of the block: it accepts the oldest input presented (spec/20_memory.md R29). -/

namespace Sys2Proof.Machine

/-- One step (R29, R37, R91). -/
def step (s : State) : Host.Outcome State Fault Refusal :=
  match s.inputs with
  | [] => noInputPresented
  | input :: rest => acceptInput input rest s

/-- `s` with an opcode-table word as the next command the port accepts; inputs that were waiting wait behind it
(notes/assumptions/7.md). -/
def State.withFetchWord (s : State) (nbits w : Nat) : State := s.offer (commandOfBits nbits w)

end Sys2Proof.Machine
end

