-- ==== Sys2Proof/Machine/Assembler.lean ====
section
/-! DEFINITION. The host's command-list syntax (spec/30_encoding.md R46) and the two pseudo-instructions (R47). None
of this is block state: names are host values. The lexical details R46 leaves open are in notes/assumptions/12.md, and how a
pseudo-instruction stands as a line of text is in notes/assumptions/15.md. -/

namespace Sys2Proof.Machine

/-- The ten commands of R42. -/
inductive Mnemonic where
  | smSeed | smNext | smNextDouble | smRead
  | xsSeed | xsNext | xsNextDouble | xsRead | xsJump | xsLongJump
deriving DecidableEq, Repr

/-- An operand as written: a number, or a host-side name. -/
inductive AsmOperand where
  | num (n : Nat)
  | name (x : String)
deriving DecidableEq, Repr

/-- One line: the name its result is bound to, if any, the mnemonic and the operands (R46). -/
structure Line where
  bind : Option String
  cmd : Mnemonic
  operands : List AsmOperand
deriving DecidableEq, Repr

/-- The host-side names and the words bound to them, the latest first. -/
abbrev HostNames := List (String × Word)

/-- The command drives r, so a line may bind it (R41, R46). -/
def drivesResult (m : Mnemonic) : Bool :=
  match m with
  | .smNext | .smNextDouble | .smRead | .xsNext | .xsNextDouble | .xsRead => true
  | .smSeed | .xsSeed | .xsJump | .xsLongJump => false

/-- The word an operand stands for; a number must fit in 64 bits (R46). -/
def operandWord (names : HostNames) (o : AsmOperand) : Option Word :=
  match o with
  | .num n => if n < 2 ^ 64 then some (BitVec.ofNat 64 n) else none
  | .name x => names.lookup x

/-- Every operand's word, or none if one has none. -/
def operandWords (names : HostNames) (os : List AsmOperand) : Option (List Word) :=
  match os with
  | [] => some []
  | o :: rest =>
    match operandWord names o, operandWords names rest with
    | some v, some vs => some (v :: vs)
    | _, _ => none

/-- An instruction that takes no operands. -/
def noOperands (i : Instr) (vs : List Word) : Option Instr :=
  match vs with
  | [] => some i
  | _ :: _ => none

/-- `SM_SEED v`. -/
def assembleSmSeed (vs : List Word) : Option Instr :=
  match vs with
  | [v] => some (.smSeed v)
  | _ => none

/-- `XS_SEED a, b, c, d`, in the order of d[0..3]. -/
def assembleXsSeed (vs : List Word) : Option Instr :=
  match vs with
  | [a, b, c, e] => some (.xsSeed a b c e)
  | _ => none

/-- `XS_READ w`, with w from 0 to 3. -/
def assembleXsRead (vs : List Word) : Option Instr :=
  match vs with
  | [w] => if w.toNat < 4 then some (xsReadOf w.toNat) else none
  | _ => none

/-- A mnemonic with its operand words; no command but these three takes operands (R46). -/
def assembleWords (m : Mnemonic) (vs : List Word) : Option Instr :=
  match m with
  | .smSeed => assembleSmSeed vs
  | .smNext => noOperands .smNext vs
  | .smNextDouble => noOperands .smNextDouble vs
  | .smRead => noOperands .smRead vs
  | .xsSeed => assembleXsSeed vs
  | .xsNext => noOperands .xsNext vs
  | .xsNextDouble => noOperands .xsNextDouble vs
  | .xsRead => assembleXsRead vs
  | .xsJump => noOperands .xsJump vs
  | .xsLongJump => noOperands .xsLongJump vs

/-- The instruction of a line, or none if the line is ill-formed (R46). -/
def assemble (names : HostNames) (l : Line) : Option Instr :=
  if l.bind.isSome && !drivesResult l.cmd then none
  else
    match operandWords names l.operands with
    | some vs => assembleWords l.cmd vs
    | none => none

/-- `XS_SEED_FROM_SM v` with the four host-side names it uses (R47 (a)). -/
def xsSeedFromSm (v : AsmOperand) (a b c e : String) : List Line :=
  [⟨none, .smSeed, [v]⟩,
   ⟨some a, .smNext, []⟩, ⟨some b, .smNext, []⟩, ⟨some c, .smNext, []⟩, ⟨some e, .smNext, []⟩,
   ⟨none, .xsSeed, [.name a, .name b, .name c, .name e]⟩]

/-- `XS_SAVE` with the four host-side names it binds (R47 (b)). -/
def xsSave (a b c e : String) : List Line :=
  [⟨some a, .xsRead, [.num 0]⟩, ⟨some b, .xsRead, [.num 1]⟩,
   ⟨some c, .xsRead, [.num 2]⟩, ⟨some e, .xsRead, [.num 3]⟩]

/-! ## Text -/

/-- A space or a tab. -/
def isBlankChar (c : Char) : Bool := c == ' ' || c == '\t'

/-- Without blanks at either end. -/
def trimChars (cs : List Char) : List Char :=
  ((cs.dropWhile isBlankChar).reverse.dropWhile isBlankChar).reverse

/-- The value of a digit, in decimal or lower- or upper-case hexadecimal. -/
def digitValue (c : Char) : Option Nat :=
  if '0' ≤ c ∧ c ≤ '9' then some (c.toNat - '0'.toNat)
  else if 'a' ≤ c ∧ c ≤ 'f' then some (c.toNat - 'a'.toNat + 10)
  else if 'A' ≤ c ∧ c ≤ 'F' then some (c.toNat - 'A'.toNat + 10)
  else none

/-- The number the digits write after `acc` in a base, each digit below the base. -/
def digitsValue (base acc : Nat) (cs : List Char) : Option Nat :=
  match cs with
  | [] => some acc
  | c :: rest =>
    match digitValue c with
    | some k => if k < base then digitsValue base (acc * base + k) rest else none
    | none => none

/-- A decimal number, or a hexadecimal one after `0x` (R46). -/
def parseNumber (cs : List Char) : Option Nat :=
  match cs with
  | '0' :: 'x' :: c :: rest => digitsValue 16 0 (c :: rest)
  | c :: rest => digitsValue 10 0 (c :: rest)
  | [] => none

/-- A host-side name: a letter, then letters, digits and underscores. -/
def parseName (cs : List Char) : Option String :=
  match cs with
  | c :: rest =>
    if c.isAlpha && rest.all (fun x => x.isAlphanum || x == '_') then some (String.ofList (c :: rest)) else none
  | [] => none

/-- An operand: a number if it begins with a digit, else a name. -/
def parseOperand (cs : List Char) : Option AsmOperand :=
  let cs := trimChars cs
  match cs with
  | c :: _ => if c.isDigit then (parseNumber cs).map .num else (parseName cs).map .name
  | [] => none

/-- Operands separated by commas (R46). -/
def parseOperands (parts : List (List Char)) : Option (List AsmOperand) :=
  match parts with
  | [] => some []
  | p :: rest =>
    match parseOperand p, parseOperands rest with
    | some o, some os => some (o :: os)
    | _, _ => none

/-- The mnemonics of R42 as written, and these only: R46 says that a line's mnemonic is one of R42's. The two names of
R47 stand for lists of lines, and `parsePseudo` reads them; where they may stand in a text is the model's choice (DESIGN
CHOICE, notes/assumptions/15.md). -/
def parseMnemonic (cs : List Char) : Option Mnemonic :=
  [("SM_SEED", Mnemonic.smSeed), ("SM_NEXT", .smNext), ("SM_NEXT_DOUBLE", .smNextDouble), ("SM_READ", .smRead),
   ("XS_SEED", .xsSeed), ("XS_NEXT", .xsNext), ("XS_NEXT_DOUBLE", .xsNextDouble), ("XS_READ", .xsRead),
   ("XS_JUMP", .xsJump), ("XS_LONG_JUMP", .xsLongJump)].lookup (String.ofList cs)

/-- A line of text without its comment and the blanks at its ends (R46). -/
def lineBody (text : String) : List Char := trimChars (text.toList.takeWhile (· != ';'))

/-- The first word of a command. -/
def commandWord (cs : List Char) : List Char := cs.takeWhile (fun c => !isBlankChar c)

/-- What stands after the first word. -/
def commandRest (cs : List Char) : List Char := trimChars (cs.dropWhile (fun c => !isBlankChar c))

/-- A mnemonic and its operands. -/
def parseCommand (bind : Option String) (cs : List Char) : Option Line :=
  let rest := commandRest cs
  match parseMnemonic (commandWord cs),
        (if rest = [] then some [] else parseOperands (rest.splitOn ',')) with
  | some m, some os => some ⟨bind, m, os⟩
  | _, _ => none

/-- One line of text that holds a command of R42 (R46): `none` if it is ill-formed or holds a pseudo-instruction, `some
none` if it holds no command, which a line of blanks or of a comment alone may do by the model's choice (DESIGN CHOICE,
notes/assumptions/12.md). `parseLines` reads the pseudo-instructions too. -/
def parseLine (text : String) : Option (Option Line) :=
  let cs := lineBody text
  if cs = [] then some none
  else
    match cs.splitOn '=' with
    | [body] => (parseCommand none (trimChars body)).map some
    | [x, body] =>
      match parseName (trimChars x) with
      | some n => (parseCommand (some n) (trimChars body)).map some
      | none => none
    | _ => none

/-! ## Pseudo-instructions in a text

R46 takes a line's mnemonic from R42 only, while two listings of spec/95_test_vectors.md write a pseudo-instruction of
R47 as a line: `XS_SAVE` (P5) and `w0..w3 = XS_SAVE` (P7). The model admits such a line and reads it as the lines it
expands to. DESIGN CHOICE, notes/assumptions/15.md. -/

/-- `w0..w3` of P7, for any name in place of `w`: the four names from the one ending in 0 to the one ending in 3. -/
def parseNameRange (cs : List Char) : Option (String × String × String × String) :=
  match cs.splitOn '.' with
  | [x, [], y] =>
    let stem := x.dropLast
    if x = stem ++ ['0'] ∧ y = stem ++ ['3'] then
      match parseName (stem ++ ['0']), parseName (stem ++ ['1']), parseName (stem ++ ['2']),
            parseName (stem ++ ['3']) with
      | some a, some b, some c, some e => some (a, b, c, e)
      | _, _, _, _ => none
    else none
  | _ => none

/-- The lines a pseudo-instruction expands to (R47), with R47's own host-side names a, b, c and e unless a range of
names is written before `=`; `none` for any other text. DESIGN CHOICE, notes/assumptions/15.md. -/
def parsePseudo (cs : List Char) : Option (List Line) :=
  match cs.splitOn '=' with
  | [body] =>
    if commandWord body = "XS_SEED_FROM_SM".toList then
      (parseOperand (commandRest body)).map (fun v => xsSeedFromSm v "a" "b" "c" "e")
    else if body = "XS_SAVE".toList then some (xsSave "a" "b" "c" "e")
    else none
  | [x, body] =>
    if trimChars body = "XS_SAVE".toList then
      (parseNameRange (trimChars x)).map (fun n => xsSave n.1 n.2.1 n.2.2.1 n.2.2.2)
    else none
  | _ => none

/-- The command lines that one line of text stands for (R46, R47): `none` if it is ill-formed. -/
def parseLines (text : String) : Option (List Line) :=
  match parsePseudo (lineBody text) with
  | some ls => some ls
  | none => (parseLine text).map (fun l => l.toList)

end Sys2Proof.Machine
end

