-- ==== Sys2Proof/Machine/HostProgram.lean ====
section
/-! DEFINITION. What the host does with the block (spec/30_encoding.md R37, R47; spec/70_reset_and_hazards.md R91,
R95): a transaction, a run of a command list, the observation at its end, and a run of command lines. -/

namespace Sys2Proof.Machine

/-- One transaction (R37): the host presents `c`, the block takes one step, and the host has the response. -/
def transact (c : Command) (s : State) : Option (Response × State) :=
  match step (s.offer c) with
  | .next t => t.response.map (fun r => (r, t))
  | .fault _ | .refused _ => none

/-- A list of commands in order, each after the response to the one before it (R29, R91): the responses and the state
at the end. -/
def runCommands (cs : List Command) (s : State) : Option (List Response × State) :=
  match cs with
  | [] => some ([], s)
  | c :: rest =>
    match transact c s with
    | some (r, t) => (runCommands rest t).map (fun p => (r :: p.1, p.2))
    | none => none

/-- What a run from reset shows (R95). A generator's words are shown only once seeded, since R95 does not say "the
state words' values before the first seed" (notes/assumptions/14.md). -/
structure Observation where
  responses : List Response
  smS : Option Word
  xsS : Option Quad
  smW : Bool
  xsW : Bool
deriving DecidableEq, Repr

/-- The observation of a run that ends in `s`, `none` where the fault record is not none (R26, R95). -/
def observationOf (rs : List Response) (s : State) : Option Observation :=
  if s.fault = none then
    some ⟨rs, if s.smW then some s.smS else none, if s.xsW then some s.xsS else none, s.smW, s.xsW⟩
  else none

/-- The observation of the run of a command list from reset (R95). -/
def observe (cs : List Command) : Option Observation :=
  match runCommands cs State.reset with
  | some (rs, t) => observationOf rs t
  | none => none

/-- Bind a line's name to the result word the response drives, if the line has a name (R46). -/
def bindResult (x : Option String) (r : Option Word) (names : HostNames) : Option HostNames :=
  match x, r with
  | none, _ => some names
  | some n, some v => some ((n, v) :: names)
  | some _, none => none

/-- Command lines in order (R46): the host-side names, the responses and the state at the end; `none` where a line is
ill-formed or binds a result that is not driven. -/
def runLines (ls : List Line) (names : HostNames) (s : State) : Option (HostNames × List Response × State) :=
  match ls with
  | [] => some (names, [], s)
  | l :: rest =>
    match assemble names l with
    | none => none
    | some i =>
      match transact (encode i) s with
      | none => none
      | some (r, t) =>
        match bindResult l.bind r.r names with
        | none => none
        | some names' => (runLines rest names' t).map (fun p => (p.1, r :: p.2.1, p.2.2))

end Sys2Proof.Machine
end

