-- ==== Sys2Proof/Machine/System.lean ====
section
/-! DEFINITION. A system of N_INSTANCES independent blocks (spec/60_exceptions.md R82; spec/20_memory.md R34): each
has its own state and its own command port, and one step of the system is one step of one instance. The words after a
reset assertion are the exception the model makes: instances whose free indexes agree get equal ones, which the spec
does not say (DESIGN CHOICE, notes/assumptions/3.md, 10.md). -/

namespace Sys2Proof.Machine

/-- The instances; their number is the platform's (R82). -/
abbrev System := List State

/-- Instance `k` takes one step, if it exists and its step answers a next state. -/
def systemStep (k : Nat) (sys : System) : Option System :=
  match sys[k]? with
  | none => none
  | some s =>
    match step s with
    | .next t => some (sys.set k t)
    | .fault _ | .refused _ => none

end Sys2Proof.Machine
end

