-- ==== Sys2Proof/Safety.lean ====
section
/-! DEFINITION. The terms claims use: a live stream, what a command belongs to, the invariant,
interleavings and n-fold steps. -/

namespace Sys2Proof.Machine

/-- The premise a claim about a non-zero stream takes (R80, R90). -/
def State.live (s : State) : Prop := s.xsW = true ∧ s.xsS ≠ Quad.zero

/-- The instruction belongs to SplitMix64 (R17). -/
def isSm (i : Instr) : Bool :=
  match i with
  | .smSeed _ | .smNext | .smNextDouble | .smRead => true
  | .xsSeed _ _ _ _ | .xsNext | .xsNextDouble | .xsRead0 | .xsRead1 | .xsRead2 | .xsRead3
  | .xsJump | .xsLongJump => false

/-- The generator of an instruction (R38). -/
def genOf (i : Instr) : Gen := if isSm i then .sm else .xs

/-- A seed command, which reads no state (R17, R19). -/
def isSeed (i : Instr) : Bool :=
  match i with
  | .smSeed _ | .xsSeed _ _ _ _ => true
  | .smNext | .smNextDouble | .smRead | .xsNext | .xsNextDouble | .xsRead0 | .xsRead1 | .xsRead2
  | .xsRead3 | .xsJump | .xsLongJump => false

/-- A command that drives r when it executes (R41). -/
def hasResult (i : Instr) : Bool :=
  match i with
  | .smNext | .smNextDouble | .smRead | .xsNext | .xsNextDouble | .xsRead0 | .xsRead1 | .xsRead2
  | .xsRead3 => true
  | .smSeed _ | .xsSeed _ _ _ _ | .xsJump | .xsLongJump => false

/-- The written flag of a generator (R19). -/
def State.seeded (s : State) (g : Gen) : Bool :=
  match g with
  | .sm => s.smW
  | .xs => s.xsW

/-- A command of SplitMix64. -/
def smCommand (c : Command) : Prop := ∃ i, decode c = some i ∧ isSm i = true

/-- A command of Xoshiro256+. -/
def xsCommand (c : Command) : Prop := ∃ i, decode c = some i ∧ isSm i = false

/-- The machine's invariant: a recorded illegal byte is illegal for every operand (R77), a response drives r only with
status OK (R41, R78, R79), and a record is on file whenever the last response is not OK (R26, R78, R79). -/
structure Inv (s : State) : Prop where
  recordedByteIllegal : ∀ op, s.fault = some (.illegalCommand op) → ∀ d, decode ⟨op, d⟩ = none
  resultOnlyWhenOk : ∀ r, s.response = some r → r.status ≠ some .ok → r.r = none
  notOkIsRecorded : ∀ r, s.response = some r → r.status ≠ some .ok → s.fault ≠ none

/-- `zs` is an interleaving of `xs` and `ys` (R35). -/
inductive Interleaves {α : Type} : List α → List α → List α → Prop where
  | nil : Interleaves [] [] []
  | left (x : α) {xs ys zs : List α} : Interleaves xs ys zs → Interleaves (x :: xs) ys (x :: zs)
  | right (y : α) {xs ys zs : List α} : Interleaves xs ys zs → Interleaves xs (y :: ys) (y :: zs)

/-- The SplitMix64 state update, without its output (R51). -/
def smAdvance (s : Word) : Word := (smStep s).1

/-- n steps of SplitMix64 from `s`. -/
def smSteps (n : Nat) (s : Word) : Word := smAdvance^[n] s

/-- `step^n(S)` of R64: n applications of the Xoshiro256+ state update. -/
def xsSteps (n : Nat) (q : Quad) : Quad := xsAdvance^[n] q

/-- The bytes from `lo` to `hi`. -/
def byteSpan (lo hi : Nat) : List Nat := List.range' lo (hi + 1 - lo)

/-- The five groups of illegal bytes as R44 lists them. -/
def illegalGroup (k : Fin 5) : List Nat :=
  match k with
  | 0 => byteSpan 0x80 0xFF
  | 1 => [0x00] ++ byteSpan 0x05 0x0F
  | 2 => byteSpan 0x20 0x2F ++ byteSpan 0x40 0x4F ++ byteSpan 0x60 0x6F
  | 3 => [0x10] ++ byteSpan 0x17 0x1F ++ [0x30] ++ byteSpan 0x37 0x3F ++ [0x50] ++ byteSpan 0x57 0x5F
      ++ [0x70] ++ byteSpan 0x77 0x7F
  | 4 => byteSpan 0x31 0x33 ++ [0x35, 0x36] ++ byteSpan 0x51 0x53 ++ [0x55, 0x56] ++ byteSpan 0x71 0x73
      ++ [0x75, 0x76]

/-- `t` is `s` after Unseeded(g) (R20, R79): nothing changed but the record, which keeps the first fault, and the
response, which has no result. The status is left open here, since R77 does not define it. -/
def unseededAfter (g : Gen) (s t : State) : Prop :=
  ∃ status, t = { s with fault := keepFirst s.fault (.unseeded g), response := some ⟨status, none⟩ }

/-- Every command is legal and every command that reads a generator's state comes after a seed of that generator, where
`sm` and `xs` say which are seeded before the list (R89). -/
def seededFirst (sm xs : Bool) (cs : List Command) : Bool :=
  match cs with
  | [] => true
  | c :: rest =>
    match decode c with
    | none => false
    | some i =>
      (isSeed i || (if isSm i then sm else xs))
        && seededFirst (sm || (isSeed i && isSm i)) (xs || (isSeed i && !isSm i)) rest

end Sys2Proof.Machine
end

