-- ==== Sys2Proof/Certificates/Slice0/Obligations.lean ====
section
/-! DEFINITION. The statements for the provers. Each docstring names the rules of spec/ it formalises. -/

open Sys2Proof Sys2Proof.Machine

/-! ## Encoding -/

/-- R42: the legal commands are exactly the thirteen bytes of the table, each with the operand words its row reads. -/
def Obligations.OpcodeMapIsTheTable : Prop :=
  ∀ d : Quad,
    decode ⟨0x01, d⟩ = some (.smSeed d.w0) ∧ decode ⟨0x02, d⟩ = some .smNext ∧
    decode ⟨0x03, d⟩ = some .smNextDouble ∧ decode ⟨0x04, d⟩ = some .smRead ∧
    decode ⟨0x11, d⟩ = some (.xsSeed d.w0 d.w1 d.w2 d.w3) ∧ decode ⟨0x12, d⟩ = some .xsNext ∧
    decode ⟨0x13, d⟩ = some .xsNextDouble ∧ decode ⟨0x14, d⟩ = some .xsRead0 ∧
    decode ⟨0x34, d⟩ = some .xsRead1 ∧ decode ⟨0x54, d⟩ = some .xsRead2 ∧
    decode ⟨0x74, d⟩ = some .xsRead3 ∧ decode ⟨0x15, d⟩ = some .xsJump ∧
    decode ⟨0x16, d⟩ = some .xsLongJump ∧
    ∀ op : Byte, (decode ⟨op, d⟩).isSome = true ↔
      op ∈ ([0x01, 0x02, 0x03, 0x04, 0x11, 0x12, 0x13, 0x14, 0x34, 0x54, 0x74, 0x15, 0x16] : List Byte)

/-- R38: a byte is legal exactly when its fields pass the checks of WellFormed.lean: the reserved bit is 0, the
function is one of its generator's, and the word index is 00 outside XS_READ. -/
def Obligations.LegalExactlyWhenFieldsPass : Prop :=
  ∀ c : Command, (decode c).isSome = c.wellFormed

/-- R44: the illegal bytes are the five listed groups, which are disjoint and have 128, 12, 48, 40 and 15 members,
243 together. -/
def Obligations.IllegalBytesAreTheFiveGroups : Prop :=
  (∀ (b : Nat) (d : Quad), b < 256 → (decode ⟨BitVec.ofNat 8 b, d⟩ = none ↔ ∃ k, b ∈ illegalGroup k)) ∧
  (illegalGroup 0).length = 128 ∧ (illegalGroup 1).length = 12 ∧ (illegalGroup 2).length = 48 ∧
  (illegalGroup 3).length = 40 ∧ (illegalGroup 4).length = 15 ∧
  (illegalGroup 0 ++ illegalGroup 1 ++ illegalGroup 2 ++ illegalGroup 3 ++ illegalGroup 4).Nodup ∧
  (illegalGroup 0 ++ illegalGroup 1 ++ illegalGroup 2 ++ illegalGroup 3 ++ illegalGroup 4).length = 243

/-- R39: an operand word that a command does not read never affects the next state or the response. SM_SEED reads
d[0], XS_SEED reads all four, verbatim, and no other command, and no illegal byte, reads any. -/
def Obligations.UnreadOperandsNeverMatter : Prop :=
  ∀ (s : State) (d d' : Quad),
    (∀ op : Byte, op ≠ 0x01 → op ≠ 0x11 → step (s.offer ⟨op, d⟩) = step (s.offer ⟨op, d'⟩)) ∧
    (d.w0 = d'.w0 → step (s.offer ⟨0x01, d⟩) = step (s.offer ⟨0x01, d'⟩)) ∧
    (∃ t, step (s.offer ⟨0x01, d⟩) = .next t ∧ t.smS = d.w0) ∧
    (∃ t, step (s.offer ⟨0x11, d⟩) = .next t ∧ t.xsS = d)

/-- R49: decoding an encoded instruction gives it back with every operand; encoding a decoded command gives its byte
back, its operands passing through; and an illegal byte encodes nothing. -/
def Obligations.DecodeAndEncodeAgree : Prop :=
  (∀ i : Instr, decode (encode i) = some i) ∧
  (∀ (c : Command) (i : Instr), decode c = some i → (encode i).op = c.op ∧ decode ⟨c.op, (encode i).d⟩ = some i) ∧
  (∀ c : Command, decode c = none → ∀ i : Instr, (encode i).op ≠ c.op) ∧
  (∀ w : Fin 4, (encode (xsReadOf w)).op = 0x14 ||| (BitVec.ofNat 8 w <<< 5))

/-- R48: the spec's five encoded lines, each with its byte and the operand words that matter, and its two illegal
bytes. -/
def Obligations.EncodingExamplesHold : Prop :=
  (encode (.smSeed 0)).op = 0x01 ∧ (encode (.smSeed 0)).d.w0 = 0 ∧ (encode .smNext).op = 0x02 ∧
  encode (.xsSeed 1 2 3 4) = ⟨0x11, ⟨1, 2, 3, 4⟩⟩ ∧
  (encode .xsRead2).op = 0x54 ∧ (encode .xsRead2).op = 0b01010100 ∧
  (encode .xsLongJump).op = 0x16 ∧ (encode .xsLongJump).op = 0b00010110 ∧
  ∀ d : Quad, decode ⟨0x05, d⟩ = none ∧ decode ⟨0x35, d⟩ = none

/-- Rows of the opcode table, by the table's own numbering of bits: one word of each family. The layout of a table word
is the model's own choice (notes/assumptions/7.md): bits 7 to 0 are the opcode byte, operand words begin at bit 8, and
bits above `nbits` are 0, so the absent operand of SM_SEED reads 0. -/
def Obligations.TableWordsDecodeToTheirRows : Prop :=
  decodeTableWord 8 0b00000001 = some (.smSeed 0) ∧ decodeTableWord 8 0b00000011 = some .smNextDouble ∧
  decodeTableWord 8 0b00010010 = some .xsNext ∧ decodeTableWord 8 0b01110100 = some .xsRead3 ∧
  decodeTableWord 8 0b00010101 = some .xsJump

/-- R46: an operand is a number that fits in 64 bits or a name bound to a word; SM_SEED takes one, XS_SEED four in the
order of d[0..3], XS_READ a word index from 0 to 3 that it encodes as W, every other command none; a line with another
operand count, a wider number or an unbound name is refused; and a name bound to a result changes no encoding. That
`lookup` gives the latest of several bindings of a name is the model's choice (DESIGN CHOICE, notes/assumptions/12.md).
-/
def Obligations.AssemblerFollowsTheSyntax : Prop :=
  (∀ (names : HostNames) (n : Nat),
    operandWord names (.num n) = if n < 2 ^ 64 then some (BitVec.ofNat 64 n) else none) ∧
  (∀ (names : HostNames) (x : String), operandWord names (.name x) = names.lookup x) ∧
  (∀ (names : HostNames) (o : AsmOperand) (v : Word), operandWord names o = some v →
    assemble names ⟨none, .smSeed, [o]⟩ = some (.smSeed v)) ∧
  (∀ (names : HostNames) (oa ob oc oe : AsmOperand) (a b c e : Word), operandWord names oa = some a →
    operandWord names ob = some b → operandWord names oc = some c → operandWord names oe = some e →
    assemble names ⟨none, .xsSeed, [oa, ob, oc, oe]⟩ = some (.xsSeed a b c e)) ∧
  (∀ (names : HostNames) (n : Nat),
    (assemble names ⟨none, .xsRead, [.num n]⟩).map encodeOp
      = if n < 4 then some (0x14 ||| (BitVec.ofNat 8 n <<< 5)) else none) ∧
  (∀ (names : HostNames),
    assemble names ⟨none, .smNext, []⟩ = some .smNext ∧
    assemble names ⟨none, .smNextDouble, []⟩ = some .smNextDouble ∧
    assemble names ⟨none, .smRead, []⟩ = some .smRead ∧ assemble names ⟨none, .xsNext, []⟩ = some .xsNext ∧
    assemble names ⟨none, .xsNextDouble, []⟩ = some .xsNextDouble ∧
    assemble names ⟨none, .xsJump, []⟩ = some .xsJump ∧
    assemble names ⟨none, .xsLongJump, []⟩ = some .xsLongJump) ∧
  (∀ (names : HostNames) (l : Line),
    l.operands.length ≠
      (match l.cmd with
      | .smSeed | .xsRead => 1
      | .xsSeed => 4
      | .smNext | .smNextDouble | .smRead | .xsNext | .xsNextDouble | .xsJump | .xsLongJump => 0) →
    assemble names l = none) ∧
  (∀ (names : HostNames) (l : Line) (n : Nat), .num n ∈ l.operands → 2 ^ 64 ≤ n → assemble names l = none) ∧
  (∀ (names : HostNames) (l : Line) (x : String), .name x ∈ l.operands → names.lookup x = none →
    assemble names l = none) ∧
  (∀ (names : HostNames) (x : String) (m : Mnemonic) (os : List AsmOperand),
    m ∈ [.smNext, .smNextDouble, .smRead, .xsNext, .xsNextDouble, .xsRead] →
    assemble names ⟨some x, m, os⟩ = assemble names ⟨none, m, os⟩)

/-! ## Steps, outcomes and reset -/

/-- A command at the head of the port that decodes is run by `exec`, with the inputs behind it left waiting (R29,
R37). -/
def Obligations.StepRunsTheDecodedInstruction : Prop :=
  ∀ (s : State) (c : Command) (rest : List Input) (i : Instr),
    s.inputs = .command c :: rest → decode c = some i → step s = exec i { s with inputs := rest }

/-- The model's own convention (notes/assumptions/7.md): an opcode-table word put on the port is the very next
command, and it runs on the state as it was. -/
def Obligations.FetchWordRunsNext : Prop :=
  ∀ (s : State) (nbits w : Nat) (i : Instr),
    decodeTableWord nbits w = some i → step (s.withFetchWord nbits w) = exec i s

/-- R78: an illegal byte answers ILLEGAL with r not driven, changes none of SM.s, XS.s, SM.w, XS.w, records the
fault if none is recorded and keeps the recorded one otherwise, and the block goes on to the inputs behind it. -/
def Obligations.IllegalByteChangesNothing : Prop :=
  ∀ (s : State) (c : Command) (rest : List Input),
    s.inputs = .command c :: rest → decode c = none →
    ∃ t, step s = .next t ∧ t.response = some ⟨some .illegal, none⟩ ∧ t.smS = s.smS ∧ t.xsS = s.xsS ∧
      t.smW = s.smW ∧ t.xsW = s.xsW ∧ t.inputs = rest ∧
      (s.fault = none → t.fault = some (.illegalCommand c.op)) ∧ (∀ f, s.fault = some f → t.fault = some f)

/-- R87, R88: a reset, between commands or abandoning the one that executes, clears both written flags and the fault
record and leaves no response. Nothing is said of the state words: they are unspecified. -/
def Obligations.ResetAssertionClears : Prop :=
  ∀ (s : State) (rest : List Input),
    (s.inputs = .reset :: rest ∨ ∃ c, s.inputs = .resetDuring c :: rest) →
    ∃ t, step s = .next t ∧ t.smW = false ∧ t.xsW = false ∧ t.fault = none ∧ t.response = none

/-- R27: the values the spec gives for reset. The state words are unspecified there, and nothing is said of them. -/
def Obligations.ResetHasTheStatedValues : Prop :=
  State.reset.smW = false ∧ State.reset.xsW = false ∧ State.reset.fault = none ∧ State.reset.response = none

/-- The model's own choice (notes/assumptions/1.md): with nothing presented the run has ended and a step stops. -/
def Obligations.StepWithNothingPresentedStops : Prop :=
  ∀ s : State, s.inputs = [] → step s = .fault .noInput

/-! ## The commands

Each result is a whole next state, so each is also its command's frame. Besides the spec's state that frame holds the
two fields of the model's own, `inputs` and `freeIndex` (notes/assumptions/7.md, 3.md), which no command touches. -/

/-- R52: SM_SEED, with its operand in d[0]. -/
def Obligations.SmSeedSetsTheState : Prop :=
  ∀ (v : Word) (s : State), (encode (.smSeed v)).op = 0x01 ∧ (encode (.smSeed v)).d.w0 = v ∧
    exec (.smSeed v) s = .next { s with smS := v, smW := true, response := some ⟨some .ok, none⟩ }

/-- R53: SM_NEXT, seeded and unseeded. -/
def Obligations.SmNextAdvancesAndReturnsTheOutput : Prop :=
  (encode .smNext).op = 0x02 ∧
  ∀ s : State,
    (s.smW = true → exec .smNext s = .next { s with
      smS := (smStep s.smS).1, response := some ⟨some .ok, some (smStep s.smS).2⟩ }) ∧
    (s.smW = false → ∃ t, exec .smNext s = .next t ∧ unseededAfter .sm s t)

/-- R54: SM_NEXT_DOUBLE, seeded and unseeded. -/
def Obligations.SmNextDoubleConvertsTheOutput : Prop :=
  (encode .smNextDouble).op = 0x03 ∧
  ∀ s : State,
    (s.smW = true → exec .smNextDouble s = .next { s with
      smS := (smStep s.smS).1, response := some ⟨some .ok, some (toUnitDouble (smStep s.smS).2)⟩ }) ∧
    (s.smW = false → ∃ t, exec .smNextDouble s = .next t ∧ unseededAfter .sm s t)

/-- R74: SM_READ, seeded and unseeded. -/
def Obligations.SmReadReturnsTheState : Prop :=
  (encode .smRead).op = 0x04 ∧
  ∀ s : State,
    (s.smW = true → exec .smRead s = .next { s with response := some ⟨some .ok, some s.smS⟩ }) ∧
    (s.smW = false → ∃ t, exec .smRead s = .next t ∧ unseededAfter .sm s t)

/-- R58: XS_SEED. -/
def Obligations.XsSeedSetsTheFourWords : Prop :=
  ∀ (a b c e : Word) (s : State), encode (.xsSeed a b c e) = ⟨0x11, ⟨a, b, c, e⟩⟩ ∧
    exec (.xsSeed a b c e) s = .next { s with
      xsS := ⟨a, b, c, e⟩, xsW := true, response := some ⟨some .ok, none⟩ }

/-- R59: XS_NEXT, seeded and unseeded. -/
def Obligations.XsNextAdvancesAndReturnsTheResult : Prop :=
  (encode .xsNext).op = 0x12 ∧
  ∀ s : State,
    (s.xsW = true → exec .xsNext s = .next { s with
      xsS := (xsStep s.xsS).1, response := some ⟨some .ok, some (xsStep s.xsS).2⟩ }) ∧
    (s.xsW = false → ∃ t, exec .xsNext s = .next t ∧ unseededAfter .xs s t)

/-- R60: XS_NEXT_DOUBLE, seeded and unseeded. -/
def Obligations.XsNextDoubleConvertsTheResult : Prop :=
  (encode .xsNextDouble).op = 0x13 ∧
  ∀ s : State,
    (s.xsW = true → exec .xsNextDouble s = .next { s with
      xsS := (xsStep s.xsS).1, response := some ⟨some .ok, some (toUnitDouble (xsStep s.xsS).2)⟩ }) ∧
    (s.xsW = false → ∃ t, exec .xsNextDouble s = .next t ∧ unseededAfter .xs s t)

/-- R75: XS_READ 0 to 3, seeded and unseeded. -/
def Obligations.XsReadReturnsTheSelectedWord : Prop :=
  (encode .xsRead0).op = 0x14 ∧ (encode .xsRead1).op = 0x34 ∧ (encode .xsRead2).op = 0x54 ∧
  (encode .xsRead3).op = 0x74 ∧
  ∀ s : State,
    (s.xsW = true →
      exec .xsRead0 s = .next { s with response := some ⟨some .ok, some s.xsS.w0⟩ } ∧
      exec .xsRead1 s = .next { s with response := some ⟨some .ok, some s.xsS.w1⟩ } ∧
      exec .xsRead2 s = .next { s with response := some ⟨some .ok, some s.xsS.w2⟩ } ∧
      exec .xsRead3 s = .next { s with response := some ⟨some .ok, some s.xsS.w3⟩ }) ∧
    (s.xsW = false → ∀ i ∈ [Instr.xsRead0, .xsRead1, .xsRead2, .xsRead3],
      ∃ t, exec i s = .next t ∧ unseededAfter .xs s t)

/-- R65: XS_JUMP, seeded and unseeded. -/
def Obligations.XsJumpRunsTheEngine : Prop :=
  (encode .xsJump).op = 0x15 ∧
  ∀ s : State,
    (s.xsW = true → exec .xsJump s = .next { s with
      xsS := jumpEngine s.xsS ⟨0x180ec6d33cfd0aba, 0xd5a61266f0c9392c, 0xa9582618e03fc9aa, 0x39abdc4529b1661c⟩,
      response := some ⟨some .ok, none⟩ }) ∧
    (s.xsW = false → ∃ t, exec .xsJump s = .next t ∧ unseededAfter .xs s t)

/-- R66: XS_LONG_JUMP, seeded and unseeded. -/
def Obligations.XsLongJumpRunsTheEngine : Prop :=
  (encode .xsLongJump).op = 0x16 ∧
  ∀ s : State,
    (s.xsW = true → exec .xsLongJump s = .next { s with
      xsS := jumpEngine s.xsS ⟨0x76e15d3efefdcbbf, 0xc5004e441c522fb3, 0x77710069854ee241, 0x39109bb02acbe635⟩,
      response := some ⟨some .ok, none⟩ }) ∧
    (s.xsW = false → ∃ t, exec .xsLongJump s = .next t ∧ unseededAfter .xs s t)

/-! ## The pure functions -/

/-- R51, in the natural-number arithmetic of R10: sums and products reduced modulo 2^64, right shifts as division. -/
def Obligations.SmStepInNaturalArithmetic : Prop :=
  ∀ s : Word,
    let s' := (s.toNat + 0x9E3779B97F4A7C15) % 2 ^ 64
    let z1 := ((s' ^^^ (s' / 2 ^ 30)) * 0xBF58476D1CE4E5B9) % 2 ^ 64
    let z2 := ((z1 ^^^ (z1 / 2 ^ 27)) * 0x94D049BB133111EB) % 2 ^ 64
    (smStep s).1.toNat = s' ∧ (smStep s).2.toNat = z2 ^^^ (z2 / 2 ^ 31)

/-- R57, in the parallel form the rule derives from its lines. -/
def Obligations.XsStepInParallelForm : Prop :=
  ∀ a0 a1 a2 a3 : Word,
    xsStep ⟨a0, a1, a2, a3⟩ =
      (⟨a0 ^^^ a3 ^^^ a1, a1 ^^^ a2 ^^^ a0, a2 ^^^ a0 ^^^ (a1 <<< 17), (a3 ^^^ a1).rotateLeft 45⟩, a0 + a3)

/-- R63, R62: the engine makes exactly 256 internal steps, whose working state it then drops, and returns the XOR of the states `step^k(S)` over the k, from 0 to 255, whose bit
`TABLE[k div 64][k mod 64]` is set. -/
def Obligations.JumpEngineSumsTheVisitedStates : Prop :=
  ∀ q table : Quad,
    jumpTicks table 256 (jumpStart q) = ⟨jumpEngine q table, 256, xsSteps 256 q⟩ ∧
    jumpEngine q table =
      ((List.range 256).filter (fun k =>
          (([table.w0, table.w1, table.w2, table.w3].getD (k / 64) 0).getLsbD (k % 64)))).foldl
        (fun a k => a.xor (xsSteps k q)) Quad.zero

/-- R70, in natural-number arithmetic: the pattern for m = x >> 12, whose exponent field and fraction field do not
overlap, and the value it encodes, exactly m × 2^-52. Both depend on m alone, so the low 12 bits never matter. -/
def Obligations.ConverterEncodesExactlyTheTopBits : Prop :=
  ∀ x : Word,
    let m : ℕ := x.toNat / 2 ^ 12
    (toUnitDouble x).toNat =
      (if m = 0 then 0 else (m.log2 + 971) * 2 ^ 52 + (m * 2 ^ (52 - m.log2)) % 2 ^ 52) ∧
    binary64Value (toUnitDouble x) = some ((m : ℚ) / 2 ^ 52)

/-- R71: the integer rule equals the source's construction. The pattern it builds encodes y = 1 + m × 2^-52 in [1, 2),
and the converter's result encodes y - 1. -/
def Obligations.ConverterEqualsTheSourceConstruction : Prop :=
  ∀ x : Word, ∃ y v : ℚ,
    binary64Value (sourcePattern x) = some y ∧ y = 1 + ((x.toNat / 2 ^ 12 : ℕ) : ℚ) / 2 ^ 52 ∧ 1 ≤ y ∧ y < 2 ∧
    binary64Value (toUnitDouble x) = some v ∧ v = y - 1

/-- R73 (a), (b): every result is in [0, 1) with sign bit 0; the largest is 0x3FEFFFFFFFFFFFFE and the smallest
non-zero one 0x3CB0000000000000; a non-zero result has a biased exponent from 971 to 1022. -/
def Obligations.ConverterRangeAndFields : Prop :=
  (∀ x : Word, binary64Sign (toUnitDouble x) = false ∧
    (toUnitDouble x ≠ 0 → 971 ≤ binary64Exponent (toUnitDouble x) ∧ binary64Exponent (toUnitDouble x) ≤ 1022) ∧
    ∃ v : ℚ, binary64Value (toUnitDouble x) = some v ∧ 0 ≤ v ∧ v ≤ 1 - 1 / 2 ^ 52 ∧
      (toUnitDouble x ≠ 0 → 1 / 2 ^ 52 ≤ v)) ∧
  toUnitDouble 0xFFFFFFFFFFFFFFFF = 0x3FEFFFFFFFFFFFFE ∧ toUnitDouble 0x1000 = 0x3CB0000000000000 ∧
  binary64Value 0x3FEFFFFFFFFFFFFE = some (1 - 1 / 2 ^ 52) ∧ binary64Value 0x3CB0000000000000 = some (1 / 2 ^ 52)

/-- R73 (c), (d): the converter is monotonic in value, tells apart exactly the inputs that differ in their top 52 bits,
and takes each of its values on exactly 2^12 inputs; it gives +0.0 exactly below 2^12 (R54, R60). -/
def Obligations.ConverterMonotoneAndFlat : Prop :=
  (∀ x x' : Word, x.toNat ≤ x'.toNat → ∃ v v' : ℚ, binary64Value (toUnitDouble x) = some v ∧
    binary64Value (toUnitDouble x') = some v' ∧ v ≤ v') ∧
  (∀ x x' : Word, toUnitDouble x = toUnitDouble x' ↔ x >>> 12 = x' >>> 12) ∧
  (∀ x : Word, {x' : Word | toUnitDouble x' = toUnitDouble x}.ncard = 2 ^ 12) ∧
  (∀ x : Word, toUnitDouble x = 0 ↔ x.toNat < 2 ^ 12)

/-! ## Laws of the generators -/

/-- R55 (a): n steps add n times the increment, and the state comes back exactly at the multiples of 2^64, so it
always changes. -/
def Obligations.SmPeriodIsTwoToThe64 : Prop :=
  (∀ (n : Nat) (s : Word), smSteps n s = s + BitVec.ofNat 64 n * 0x9E3779B97F4A7C15) ∧
  (∀ (n : Nat) (s : Word), smSteps n s = s ↔ 2 ^ 64 ∣ n) ∧
  (∀ s : Word, (smStep s).1 ≠ s)

/-- R55 (b): the output mix is a bijection that maps 0 to 0, so the output is 0 exactly when the new state is. -/
def Obligations.SmMixIsABijection : Prop :=
  Function.Bijective smMix ∧ smMix 0 = 0 ∧ ∀ s : Word, (smStep s).2 = 0 ↔ (smStep s).1 = 0

/-- R55 (c): over one full period from any state every 64-bit value is output exactly once. -/
def Obligations.SmOutputsEveryValueOncePerPeriod : Prop :=
  ∀ s z : Word, ∃! n : Nat, n < 2 ^ 64 ∧ (smStep (smSteps n s)).2 = z

/-- R61 (a): the state update is linear over GF(2). -/
def Obligations.XsUpdateIsLinear : Prop :=
  ∀ q u : Quad, xsAdvance (q.xor u) = (xsAdvance q).xor (xsAdvance u)

/-- R61 (b): the all-zero state is a fixed point of the update, and it is the only one. -/
def Obligations.XsOnlyFixedPointIsZero : Prop :=
  ∀ q : Quad, xsAdvance q = q ↔ q = Quad.zero

/-- R61 (c): a non-zero state returns to itself exactly after the multiples of 2^256 - 1 steps. -/
def Obligations.XsPeriodIsTwoToThe256MinusOne : Prop :=
  ∀ q : Quad, q ≠ Quad.zero → ∀ n : Nat, xsSteps n q = q ↔ (2 ^ 256 - 1) ∣ n

/-- R64: the jump engine computes exactly 2^128 steps with the jump table and 2^192 with the long-jump table, from
every state. -/
def Obligations.JumpsAreExactStrides : Prop :=
  ∀ q : Quad, jumpEngine q Config.jumpTable = xsSteps (2 ^ 128) q ∧
    jumpEngine q Config.longJumpTable = xsSteps (2 ^ 192) q

/-- R67 (a): the engine is linear, for any table. -/
def Obligations.JumpEngineIsLinear : Prop :=
  (∀ q u table : Quad, jumpEngine (q.xor u) table = (jumpEngine q table).xor (jumpEngine u table)) ∧
  ∀ table : Quad, jumpEngine Quad.zero table = Quad.zero

/-- R67 (b): a jump commutes with the step and with the other jump. -/
def Obligations.JumpsCommute : Prop :=
  (∀ q table : Quad, jumpEngine (xsAdvance q) table = xsAdvance (jumpEngine q table)) ∧
  ∀ q : Quad, jumpEngine (jumpEngine q Config.jumpTable) Config.longJumpTable
    = jumpEngine (jumpEngine q Config.longJumpTable) Config.jumpTable

/-- R67 (c), R65: a non-zero state jumps to a different non-zero state. -/
def Obligations.JumpsMoveNonZeroStates : Prop :=
  ∀ q : Quad, q ≠ Quad.zero →
    jumpEngine q Config.jumpTable ≠ q ∧ jumpEngine q Config.jumpTable ≠ Quad.zero ∧
    jumpEngine q Config.longJumpTable ≠ q ∧ jumpEngine q Config.longJumpTable ≠ Quad.zero

/-- R67 (d): from a non-zero state, the first 2^128 states and the 2^128 states after a jump are disjoint. -/
def Obligations.StreamsAfterAJumpDoNotOverlap : Prop :=
  ∀ q : Quad, q ≠ Quad.zero → ∀ i j : Nat, i < 2 ^ 128 → j < 2 ^ 128 →
    xsSteps i q ≠ xsSteps j (jumpEngine q Config.jumpTable)

/-- R80, R90, with R61 and R67 (c): a stream that is not all-zero stays so. From a live state no command but XS_SEED
makes the Xoshiro256+ state all-zero or unseeded. -/
def Obligations.LiveStreamsStayLive : Prop :=
  ∀ (i : Instr) (s t : State), s.live → (∀ a b c e, i ≠ .xsSeed a b c e) → exec i s = .next t → t.live

/-! ## The whole machine -/

/-- R17: each state word and written flag is written only by the commands of the table, and a command leaves the two
fields of the model's own as they were, the inputs (notes/assumptions/7.md) and the index of free values
(notes/assumptions/3.md). -/
def Obligations.WritesFollowTheTable : Prop :=
  ∀ (i : Instr) (s t : State), exec i s = .next t →
    ((∀ v, i ≠ .smSeed v) → i ≠ .smNext → i ≠ .smNextDouble → t.smS = s.smS) ∧
    ((∀ a b c e, i ≠ .xsSeed a b c e) → i ≠ .xsNext → i ≠ .xsNextDouble → i ≠ .xsJump → i ≠ .xsLongJump →
      t.xsS = s.xsS) ∧
    ((∀ v, i ≠ .smSeed v) → t.smW = s.smW) ∧ ((∀ a b c e, i ≠ .xsSeed a b c e) → t.xsW = s.xsW) ∧
    (isSeed i = true ∨ s.seeded (genOf i) = true → t.fault = s.fault) ∧
    t.inputs = s.inputs ∧ t.freeIndex = s.freeIndex

/-- R18: no command reads one generator's state and writes the other's. A command gives the same response and the same
state of its own generator whatever the other generator holds. -/
def Obligations.CommandsNeverSeeTheOtherGenerator : Prop :=
  ∀ (i : Instr) (s s' t t' : State), exec i s = .next t → exec i s' = .next t' →
    (isSm i = true → s.smS = s'.smS → s.smW = s'.smW →
      t.smS = t'.smS ∧ t.smW = t'.smW ∧ t.response = t'.response ∧ t.xsS = s.xsS ∧ t.xsW = s.xsW) ∧
    (isSm i = false → s.xsS = s'.xsS → s.xsW = s'.xsW →
      t.xsS = t'.xsS ∧ t.xsW = t'.xsW ∧ t.response = t'.response ∧ t.smS = s.smS ∧ t.smW = s.smW)

/-- R19: reset clears the written flags; a step that sets one is that generator's seed command; and a step that clears
one is a reset. -/
def Obligations.WrittenFlagsFollowSeedsAndReset : Prop :=
  State.reset.smW = false ∧ State.reset.xsW = false ∧
  ∀ s t : State, step s = .next t →
    (s.smW = false → t.smW = true → ∃ d rest, s.inputs = .command ⟨0x01, d⟩ :: rest) ∧
    (s.xsW = false → t.xsW = true → ∃ d rest, s.inputs = .command ⟨0x11, d⟩ :: rest) ∧
    ((∃ c rest, s.inputs = .command c :: rest) →
      (s.smW = true → t.smW = true) ∧ (s.xsW = true → t.xsW = true)) ∧
    (∀ d rest, s.inputs = .command ⟨0x01, d⟩ :: rest → t.smW = true) ∧
    (∀ d rest, s.inputs = .command ⟨0x11, d⟩ :: rest → t.xsW = true)

/-- R26: the fault record is none after reset, takes the first fault, and no later command clears or overwrites it. -/
def Obligations.FirstFaultIsKeptUntilReset : Prop :=
  State.reset.fault = none ∧
  ∀ s t : State, step s = .next t → ∀ c rest, s.inputs = .command c :: rest →
    (∀ f, s.fault = some f → t.fault = some f) ∧
    (s.fault = none → ∀ f, t.fault = some f → f = .illegalCommand c.op ∨ f = .unseeded .sm ∨ f = .unseeded .xs)

/-- R77, R41: every command ends in exactly one of OK, IllegalCommand(op) and Unseeded(gen), each with its status code
and fault code and its condition, and r is driven exactly by the commands that have a result. -/
def Obligations.EveryCommandHasOneOutcome : Prop :=
  statusCode .ok = 0 ∧ statusCode .illegal = 1 ∧ (∀ op, faultCode (.illegalCommand op) = 1) ∧
  faultCode (.unseeded .sm) = 2 ∧ faultCode (.unseeded .xs) = 3 ∧
  ∀ (c : Command) (s : State), ∃ t resp, step (s.offer c) = .next t ∧ t.response = some resp ∧ t.inputs = s.inputs ∧
    (decode c = none → t.fault = keepFirst s.fault (.illegalCommand c.op) ∧ resp = ⟨some .illegal, none⟩) ∧
    (∀ i, decode c = some i → isSeed i = true ∨ s.seeded (genOf i) = true →
      t.fault = s.fault ∧ resp.status = some .ok ∧ resp.r.isSome = hasResult i) ∧
    (∀ i, decode c = some i → isSeed i = false → s.seeded (genOf i) = false → unseededAfter (genOf i) s t)

/-- Every step keeps the invariant: a recorded illegal byte is illegal, only OK drives r, and a response that is not OK
has a fault on record. -/
def Obligations.StepKeepsTheInvariant : Prop :=
  ∀ s t : State, Inv s → step s = .next t → Inv t

/-- The invariant holds right after reset. -/
def Obligations.ResetMeetsTheInvariant : Prop := Inv State.reset

/-- R33: a read changes nothing but the response, so repeating it gives the same word and the same state; a repeated
seed leaves the same state. -/
def Obligations.ReadsAndSeedsAreIdempotent : Prop :=
  ∀ (i : Instr) (s t : State), (isSeed i = true ∨ i ∈ [.smRead, .xsRead0, .xsRead1, .xsRead2, .xsRead3]) →
    exec i s = .next t → exec i t = .next t ∧
      (isSeed i = false → t.smS = s.smS ∧ t.xsS = s.xsS ∧ t.smW = s.smW ∧ t.xsW = s.xsW)

/-- R80, R59: XS_SEED of four zero words succeeds, and from the all-zero state every Xoshiro256+ command leaves it
all-zero without a fault and every result is zero. -/
def Obligations.AllZeroStateIsAZeroStream : Prop :=
  (∀ s : State, exec (.xsSeed 0 0 0 0) s =
    .next { s with xsS := Quad.zero, xsW := true, response := some ⟨some .ok, none⟩ }) ∧
  ∀ (i : Instr) (s : State), isSm i = false → isSeed i = false → s.xsW = true → s.xsS = Quad.zero →
    ∃ t resp, exec i s = .next t ∧ t.xsS = Quad.zero ∧ t.xsW = true ∧ t.fault = s.fault ∧ t.response = some resp ∧
      resp.status = some .ok ∧ ∀ v, resp.r = some v → v = 0

/-- R37, R91, R93: a command list of any length runs to its end from any state, and each command has exactly one
response. -/
def Obligations.EveryCommandListEndsWithAResponseEach : Prop :=
  ∀ (cs : List Command) (s : State), ∃ rs t, runCommands cs s = some (rs, t) ∧ rs.length = cs.length ∧
    t.inputs = s.inputs

/-- R89, R95: a run from reset has a valid observation exactly when every command is legal and every command that reads
a generator's state comes after a seed of that generator. -/
def Obligations.ObservationExactlyWhenSeededFirst : Prop :=
  ∀ cs : List Command, (observe cs).isSome = seededFirst false false cs

/-- R76: words read out and later written back, into any state of any instance, make every later output the same. -/
def Obligations.SaveAndRestoreIsExact : Prop :=
  (∀ (s t : State) (cs : List Command), s.smW = true → (∀ c ∈ cs, smCommand c) →
    ∃ v s1 t1, transact (encode .smRead) s = some (⟨some .ok, some v⟩, s1) ∧
      transact (encode (.smSeed v)) t = some (⟨some .ok, none⟩, t1) ∧
      (runCommands cs s).map (·.1) = (runCommands cs t1).map (·.1)) ∧
  (∀ (s t : State) (cs : List Command), s.xsW = true → (∀ c ∈ cs, xsCommand c) →
    ∃ v0 v1 v2 v3 s1 t1,
      runCommands [encode .xsRead0, encode .xsRead1, encode .xsRead2, encode .xsRead3] s =
        some ([⟨some .ok, some v0⟩, ⟨some .ok, some v1⟩, ⟨some .ok, some v2⟩, ⟨some .ok, some v3⟩], s1) ∧
      transact (encode (.xsSeed v0 v1 v2 v3)) t = some (⟨some .ok, none⟩, t1) ∧
      (runCommands cs s).map (·.1) = (runCommands cs t1).map (·.1))

/-- R47: XS_SEED_FROM_SM v, for a number or a host-side name v, seeds Xoshiro256+ with four successive SplitMix64
outputs, at most one of which is zero, and leaves SM.s = v + 4 × SM_GAMMA; XS_SAVE binds the four state words and
changes none. The four host names differ. -/
def Obligations.PseudoInstructionsExpandAsStated : Prop :=
  ∀ (a b c e : String) (names : HostNames) (s : State), [a, b, c, e].Nodup →
    (∀ (o : AsmOperand) (v : Word), operandWord names o = some v →
      ∃ names' rs t z1 z2 z3 z4, runLines (xsSeedFromSm o a b c e) names s = some (names', rs, t) ∧
        z1 = (smStep v).2 ∧ z2 = (smStep (smSteps 1 v)).2 ∧ z3 = (smStep (smSteps 2 v)).2 ∧
        z4 = (smStep (smSteps 3 v)).2 ∧
        t.xsS = ⟨z1, z2, z3, z4⟩ ∧ t.xsW = true ∧ t.smW = true ∧ t.fault = s.fault ∧
        t.smS = v + 4 * 0x9E3779B97F4A7C15 ∧
        [z1, z2, z3, z4].count 0 ≤ 1 ∧ t.xsS ≠ Quad.zero) ∧
    (s.xsW = true → ∃ names' rs t, runLines (xsSave a b c e) names s = some (names', rs, t) ∧
      names'.lookup a = some s.xsS.w0 ∧ names'.lookup b = some s.xsS.w1 ∧ names'.lookup c = some s.xsS.w2 ∧
      names'.lookup e = some s.xsS.w3 ∧ t.xsS = s.xsS ∧ t.fault = s.fault)

/-- R35, R18: where one requester uses SplitMix64 only and another Xoshiro256+ only, every interleaving of their
commands leaves each generator as that requester's commands alone leave it, and gives each command the response it gets
when its requester is alone: the commands paired with their responses interleave as the commands do. -/
def Obligations.InterleavingsOfSeparateGeneratorsAgree : Prop :=
  ∀ (s : State) (xs ys zs : List Command), (∀ c ∈ xs, smCommand c) → (∀ c ∈ ys, xsCommand c) →
    Interleaves xs ys zs →
    ∃ rx tx ry ty rz tz, runCommands xs s = some (rx, tx) ∧ runCommands ys s = some (ry, ty) ∧
      runCommands zs s = some (rz, tz) ∧ rx.length = xs.length ∧ ry.length = ys.length ∧ rz.length = zs.length ∧
      Interleaves (xs.zip rx) (ys.zip ry) (zs.zip rz) ∧
      tz.smS = tx.smS ∧ tz.smW = tx.smW ∧ tz.xsS = ty.xsS ∧ tz.xsW = ty.xsW

/-- R82, R34: a step of one instance leaves every other instance as it was, and steps of two instances can be taken in
either order. Where a step is a reset assertion, that both orders give the same unspecified words is the model's choice
and no rule's (DESIGN CHOICE, notes/assumptions/3.md, 10.md): each instance's own freeIndex picks them, in either order.
-/
def Obligations.InstancesAreIndependent : Prop :=
  (∀ (k : Nat) (sys sys' : System), systemStep k sys = some sys' → sys'.length = sys.length ∧
    (∀ j, j ≠ k → sys'[j]? = sys[j]?) ∧ ∃ s t, sys[k]? = some s ∧ step s = .next t ∧ sys'[k]? = some t) ∧
  ∀ (j k : Nat) (sys : System), j ≠ k →
    (systemStep j sys).bind (systemStep k) = (systemStep k sys).bind (systemStep j)
end

