-- ==== Sys2Proof/Laws/Decode.lean ====
section
/-! SUPPORT. How the decoder depends on its two inputs. -/

namespace Sys2Proof

/-- Whether a command decodes depends on its byte alone. -/
theorem decode_isSome_operands (op : Byte) (d d' : Quad) :
    (decode ⟨op, d⟩).isSome = (decode ⟨op, d'⟩).isSome := by
  simp only [decode, decodeSm, decodeXs]
  repeat' split
  all_goals simp_all

/-- Which byte a command's instruction encodes to depends on the command's byte alone. -/
theorem decode_encodeOp_operands (op : Byte) (d d' : Quad) :
    (decode ⟨op, d⟩).map encodeOp = (decode ⟨op, d'⟩).map encodeOp := by
  simp only [decode, decodeSm, decodeXs]
  repeat' split
  all_goals simp [encodeOp]

theorem xsReadOf_ne_smSeed (w : Nat) (v : Word) : xsReadOf w ≠ .smSeed v := by
  unfold xsReadOf; split <;> simp

theorem xsReadOf_ne_xsSeed (w : Nat) (a b c e : Word) : xsReadOf w ≠ .xsSeed a b c e := by
  unfold xsReadOf; split <;> simp

end Sys2Proof
end

