-- ==== Sys2Proof/Laws/State.lean ====
section
/-! SUPPORT. One lemma per field per update of State, so that no proof unfolds a record update. -/

namespace Sys2Proof.Machine

variable (s : State)

@[simp] theorem State.putSm_smS (v : Word) : (s.putSm v).smS = v := rfl
@[simp] theorem State.putSm_xsS (v : Word) : (s.putSm v).xsS = s.xsS := rfl
@[simp] theorem State.putSm_smW (v : Word) : (s.putSm v).smW = s.smW := rfl
@[simp] theorem State.putSm_xsW (v : Word) : (s.putSm v).xsW = s.xsW := rfl
@[simp] theorem State.putSm_fault (v : Word) : (s.putSm v).fault = s.fault := rfl
@[simp] theorem State.putSm_response (v : Word) : (s.putSm v).response = s.response := rfl
@[simp] theorem State.putSm_inputs (v : Word) : (s.putSm v).inputs = s.inputs := rfl
@[simp] theorem State.putSm_freeIndex (v : Word) : (s.putSm v).freeIndex = s.freeIndex := rfl

@[simp] theorem State.putXs_smS (q : Quad) : (s.putXs q).smS = s.smS := rfl
@[simp] theorem State.putXs_xsS (q : Quad) : (s.putXs q).xsS = q := rfl
@[simp] theorem State.putXs_smW (q : Quad) : (s.putXs q).smW = s.smW := rfl
@[simp] theorem State.putXs_xsW (q : Quad) : (s.putXs q).xsW = s.xsW := rfl
@[simp] theorem State.putXs_fault (q : Quad) : (s.putXs q).fault = s.fault := rfl
@[simp] theorem State.putXs_response (q : Quad) : (s.putXs q).response = s.response := rfl
@[simp] theorem State.putXs_inputs (q : Quad) : (s.putXs q).inputs = s.inputs := rfl
@[simp] theorem State.putXs_freeIndex (q : Quad) : (s.putXs q).freeIndex = s.freeIndex := rfl

@[simp] theorem State.markSm_smS : (s.markSm).smS = s.smS := rfl
@[simp] theorem State.markSm_xsS : (s.markSm).xsS = s.xsS := rfl
@[simp] theorem State.markSm_smW : (s.markSm).smW = true := rfl
@[simp] theorem State.markSm_xsW : (s.markSm).xsW = s.xsW := rfl
@[simp] theorem State.markSm_fault : (s.markSm).fault = s.fault := rfl
@[simp] theorem State.markSm_response : (s.markSm).response = s.response := rfl
@[simp] theorem State.markSm_inputs : (s.markSm).inputs = s.inputs := rfl
@[simp] theorem State.markSm_freeIndex : (s.markSm).freeIndex = s.freeIndex := rfl

@[simp] theorem State.markXs_smS : (s.markXs).smS = s.smS := rfl
@[simp] theorem State.markXs_xsS : (s.markXs).xsS = s.xsS := rfl
@[simp] theorem State.markXs_smW : (s.markXs).smW = s.smW := rfl
@[simp] theorem State.markXs_xsW : (s.markXs).xsW = true := rfl
@[simp] theorem State.markXs_fault : (s.markXs).fault = s.fault := rfl
@[simp] theorem State.markXs_response : (s.markXs).response = s.response := rfl
@[simp] theorem State.markXs_inputs : (s.markXs).inputs = s.inputs := rfl
@[simp] theorem State.markXs_freeIndex : (s.markXs).freeIndex = s.freeIndex := rfl

@[simp] theorem State.respond_smS (r : Response) : (s.respond r).smS = s.smS := rfl
@[simp] theorem State.respond_xsS (r : Response) : (s.respond r).xsS = s.xsS := rfl
@[simp] theorem State.respond_smW (r : Response) : (s.respond r).smW = s.smW := rfl
@[simp] theorem State.respond_xsW (r : Response) : (s.respond r).xsW = s.xsW := rfl
@[simp] theorem State.respond_fault (r : Response) : (s.respond r).fault = s.fault := rfl
@[simp] theorem State.respond_response (r : Response) : (s.respond r).response = some r := rfl
@[simp] theorem State.respond_inputs (r : Response) : (s.respond r).inputs = s.inputs := rfl
@[simp] theorem State.respond_freeIndex (r : Response) : (s.respond r).freeIndex = s.freeIndex := rfl

@[simp] theorem State.record_smS (f : FaultRecord) : (s.record f).smS = s.smS := rfl
@[simp] theorem State.record_xsS (f : FaultRecord) : (s.record f).xsS = s.xsS := rfl
@[simp] theorem State.record_smW (f : FaultRecord) : (s.record f).smW = s.smW := rfl
@[simp] theorem State.record_xsW (f : FaultRecord) : (s.record f).xsW = s.xsW := rfl
@[simp] theorem State.record_fault (f : FaultRecord) : (s.record f).fault = keepFirst s.fault f := rfl
@[simp] theorem State.record_response (f : FaultRecord) : (s.record f).response = s.response := rfl
@[simp] theorem State.record_inputs (f : FaultRecord) : (s.record f).inputs = s.inputs := rfl
@[simp] theorem State.record_freeIndex (f : FaultRecord) : (s.record f).freeIndex = s.freeIndex := rfl

@[simp] theorem State.awaiting_smS (l : List Input) : (s.awaiting l).smS = s.smS := rfl
@[simp] theorem State.awaiting_xsS (l : List Input) : (s.awaiting l).xsS = s.xsS := rfl
@[simp] theorem State.awaiting_smW (l : List Input) : (s.awaiting l).smW = s.smW := rfl
@[simp] theorem State.awaiting_xsW (l : List Input) : (s.awaiting l).xsW = s.xsW := rfl
@[simp] theorem State.awaiting_fault (l : List Input) : (s.awaiting l).fault = s.fault := rfl
@[simp] theorem State.awaiting_response (l : List Input) : (s.awaiting l).response = s.response := rfl
@[simp] theorem State.awaiting_inputs (l : List Input) : (s.awaiting l).inputs = l := rfl
@[simp] theorem State.awaiting_freeIndex (l : List Input) : (s.awaiting l).freeIndex = s.freeIndex := rfl

@[simp] theorem State.offer_smS (c : Command) : (s.offer c).smS = s.smS := rfl
@[simp] theorem State.offer_xsS (c : Command) : (s.offer c).xsS = s.xsS := rfl
@[simp] theorem State.offer_smW (c : Command) : (s.offer c).smW = s.smW := rfl
@[simp] theorem State.offer_xsW (c : Command) : (s.offer c).xsW = s.xsW := rfl
@[simp] theorem State.offer_fault (c : Command) : (s.offer c).fault = s.fault := rfl
@[simp] theorem State.offer_response (c : Command) : (s.offer c).response = s.response := rfl
@[simp] theorem State.offer_inputs (c : Command) : (s.offer c).inputs = .command c :: s.inputs := rfl
@[simp] theorem State.offer_freeIndex (c : Command) : (s.offer c).freeIndex = s.freeIndex := rfl

@[simp] theorem State.applyReset_smW (rest : List Input) : (s.applyReset rest).smW = false := rfl
@[simp] theorem State.applyReset_xsW (rest : List Input) : (s.applyReset rest).xsW = false := rfl
@[simp] theorem State.applyReset_fault (rest : List Input) : (s.applyReset rest).fault = none := rfl
@[simp] theorem State.applyReset_response (rest : List Input) : (s.applyReset rest).response = none := rfl
@[simp] theorem State.applyReset_inputs (rest : List Input) : (s.applyReset rest).inputs = rest := rfl
@[simp] theorem State.applyReset_freeIndex (rest : List Input) : (s.applyReset rest).freeIndex = s.freeIndex + 5 := rfl

end Sys2Proof.Machine
end

