-- ==== Sys2Proof/Laws/Ops.lean ====
section
/-! SUPPORT. What each shared operation can do, said once: proofs cite these and do not unfold the operations. -/

namespace Sys2Proof.Machine

@[simp] theorem keepFirst_none (f : FaultRecord) : keepFirst none f = some f := rfl

@[simp] theorem keepFirst_some (g f : FaultRecord) : keepFirst (some g) f = some g := rfl

theorem keepFirst_ne_none (old : Option FaultRecord) (f : FaultRecord) : keepFirst old f ≠ none := by
  cases old <;> simp

theorem keepFirst_eq_some {old : Option FaultRecord} {f g : FaultRecord} (h : keepFirst old f = some g) :
    old = some g ∨ (old = none ∧ f = g) := by
  cases old with
  | none => exact .inr ⟨rfl, by simpa using h⟩
  | some x => exact .inl (by simpa using h)

/-! `complete` and the two fault outcomes as record updates. They are stated with variables for the new values:
checking the same equation by `rfl` with a step's arithmetic in place of a variable unfolds the arithmetic. -/

theorem complete_eq (r : Option Word) (s : State) :
    complete r s = .next { s with response := some (okResponse r) } := rfl

theorem complete_putSm (r : Option Word) (v : Word) (s : State) :
    complete r (s.putSm v) = .next { s with smS := v, response := some (okResponse r) } := rfl

theorem complete_putXs (r : Option Word) (q : Quad) (s : State) :
    complete r (s.putXs q) = .next { s with xsS := q, response := some (okResponse r) } := rfl

theorem complete_seedSm (r : Option Word) (v : Word) (s : State) :
    complete r (s.putSm v).markSm = .next { s with smS := v, smW := true, response := some (okResponse r) } := rfl

theorem complete_seedXs (r : Option Word) (q : Quad) (s : State) :
    complete r (s.putXs q).markXs = .next { s with xsS := q, xsW := true, response := some (okResponse r) } := rfl

theorem takeIllegal_eq (op : Byte) (s : State) :
    takeIllegal op s = .next { s with
      fault := keepFirst s.fault (.illegalCommand op), response := some illegalResponse } := rfl

theorem takeUnseeded_eq (g : Gen) (s : State) :
    takeUnseeded g s = .next { s with
      fault := keepFirst s.fault (.unseeded g), response := some unseededResponse } := rfl

theorem complete_eq_next {r : Option Word} {s t : State} (h : complete r s = .next t) :
    t = s.respond (okResponse r) := by
  simpa [complete] using h.symm

theorem takeIllegal_eq_next {op : Byte} {s t : State} (h : takeIllegal op s = .next t) :
    t = (s.record (.illegalCommand op)).respond illegalResponse := by
  simpa [takeIllegal] using h.symm

theorem takeUnseeded_eq_next {g : Gen} {s t : State} (h : takeUnseeded g s = .next t) :
    t = (s.record (.unseeded g)).respond unseededResponse := by
  simpa [takeUnseeded] using h.symm

theorem withSm_of_seeded {s : State} (k : Word → Result) (h : s.smW = true) : withSm s k = k s.smS := by
  simp [withSm, h]

theorem withSm_of_unseeded {s : State} (k : Word → Result) (h : s.smW = false) :
    withSm s k = takeUnseeded .sm s := by
  simp [withSm, h]

theorem withXs_of_seeded {s : State} (k : Quad → Result) (h : s.xsW = true) : withXs s k = k s.xsS := by
  simp [withXs, h]

theorem withXs_of_unseeded {s : State} (k : Quad → Result) (h : s.xsW = false) :
    withXs s k = takeUnseeded .xs s := by
  simp [withXs, h]

@[simp] theorem wordAt_zero (q : Quad) : wordAt q 0 = q.w0 := rfl
@[simp] theorem wordAt_one (q : Quad) : wordAt q 1 = q.w1 := rfl
@[simp] theorem wordAt_two (q : Quad) : wordAt q 2 = q.w2 := rfl
@[simp] theorem wordAt_three (q : Quad) : wordAt q 3 = q.w3 := rfl

end Sys2Proof.Machine
end

