-- ==== Sys2Proof/Laws/Exec.lean ====
section
/-! SUPPORT. The inversions of `exec` and `step`: everything a command and a step can do. -/

namespace Sys2Proof.Machine

/-- A command either takes Unseeded, or answers OK and touches nothing but its generator, its written flag and the
response. -/
theorem exec_outcome (i : Instr) (s : State) :
    (isSeed i = false ∧ s.seeded (genOf i) = false ∧ exec i s = takeUnseeded (genOf i) s) ∨
    ((isSeed i = true ∨ s.seeded (genOf i) = true) ∧ ∃ r : Option Word, r.isSome = hasResult i ∧
      ((genOf i = .sm ∧ ∃ v, exec i s =
          .next { s with smS := v, smW := true, response := some (okResponse r) }) ∨
       (genOf i = .xs ∧ ∃ q, exec i s =
          .next { s with xsS := q, xsW := true, response := some (okResponse r) }))) := by
  obtain ⟨sm, xs, smw, xsw, f, resp, inp, fi⟩ := s
  cases i <;> cases smw <;> cases xsw <;>
    simp [exec, execSmSeed, execSmNext, execSmNextDouble, execSmRead, execXsSeed, execXsNext, execXsNextDouble,
      execXsRead0, execXsRead1, execXsRead2, execXsRead3, readXsWord, execXsJump, execXsLongJump, withSm, withXs,
      complete, isSeed, genOf, isSm, hasResult, State.seeded, State.respond, State.putSm, State.putXs, State.markSm,
      State.markXs, okResponse]

/-- Every instruction answers a next state. -/
theorem exec_answers_next (i : Instr) (s : State) : ∃ t, exec i s = .next t := by
  obtain ⟨-, -, h⟩ | ⟨-, r, -, ⟨-, v, h⟩ | ⟨-, q, h⟩⟩ := exec_outcome i s
  · exact ⟨_, h⟩
  · exact ⟨_, h⟩
  · exact ⟨_, h⟩

theorem runCommand_of_decode {c : Command} {i : Instr} (h : decode c = some i) (s : State) :
    runCommand c s = exec i s := by
  simp [runCommand, h]

theorem runCommand_of_illegal {c : Command} (h : decode c = none) (s : State) :
    runCommand c s = takeIllegal c.op s := by
  simp [runCommand, h]

theorem step_of_command {s : State} {c : Command} {rest : List Input} (h : s.inputs = .command c :: rest) :
    step s = runCommand c (s.awaiting rest) := by
  simp [step, h, acceptInput]

/-- Everything a step that answers a next state can have done. -/
theorem step_cases {s t : State} (h : step s = .next t) :
    (∃ c rest, s.inputs = .command c :: rest ∧ runCommand c (s.awaiting rest) = .next t) ∨
    (∃ rest, (s.inputs = .reset :: rest ∨ ∃ c, s.inputs = .resetDuring c :: rest) ∧ t = s.applyReset rest) := by
  unfold step at h
  split at h
  · simp [noInputPresented] at h
  · next input rest hin =>
    cases input with
    | command c => exact .inl ⟨c, rest, hin, h⟩
    | reset => exact .inr ⟨rest, .inl hin, by simpa [acceptInput] using h.symm⟩
    | resetDuring c => exact .inr ⟨rest, .inr ⟨c, hin⟩, by simpa [acceptInput] using h.symm⟩

end Sys2Proof.Machine
end

