-- ==== Sys2Proof/Laws/PerInstr.lean ====
section
/-! SUPPORT. Statements made of every instruction, one lemma per constructor. -/

/-- The instruction's opcode byte passes the field checks of a legal byte (spec/30_encoding.md R38, R44). -/
def Sys2Proof.Laws.EncodesLegal.Statement (i : Sys2Proof.Instr) : Prop := (Sys2Proof.encode i).wellFormed = true

namespace Sys2Proof.Laws.EncodesLegal

theorem smSeed (v : Word) : Statement (.smSeed v) := by
  simp [Statement, encode, encodeOp, Command.wellFormed, Command.reservedClear, Command.functionLegal,
    Command.wordIndexLegal]
theorem smNext : Statement (.smNext) := rfl
theorem smNextDouble : Statement (.smNextDouble) := rfl
theorem smRead : Statement (.smRead) := rfl
theorem xsSeed (a b c e : Word) : Statement (.xsSeed a b c e) := by
  simp [Statement, encode, encodeOp, Command.wellFormed, Command.reservedClear, Command.functionLegal,
    Command.wordIndexLegal]
theorem xsNext : Statement (.xsNext) := rfl
theorem xsNextDouble : Statement (.xsNextDouble) := rfl
theorem xsRead0 : Statement (.xsRead0) := rfl
theorem xsRead1 : Statement (.xsRead1) := rfl
theorem xsRead2 : Statement (.xsRead2) := rfl
theorem xsRead3 : Statement (.xsRead3) := rfl
theorem xsJump : Statement (.xsJump) := rfl
theorem xsLongJump : Statement (.xsLongJump) := rfl

end Sys2Proof.Laws.EncodesLegal
end

