-- ==== Sys2Proof/Tests/Slice0.lean ====
section
/-! SUPPORT. Tests. Expected values are the spec's own: 30_encoding.md R38, R44, R48 for encodings, 95_test_vectors.md
for results (the vector's name stands in each comment). Then one witness for each statement that has hypotheses, and
for each of its clauses. -/

namespace Sys2Proof.Tests

open Sys2Proof.Machine

/-- The next state of an answer, so that states can be compared. -/
def nextState (r : Result) : Option State :=
  match r with
  | .next t => some t
  | .fault _ => none
  | .refused _ => none

/-- Both generators seeded: SM.s = x and XS.s = q. -/
def seededState (x : Word) (q : Quad) : State := { State.reset with smS := x, smW := true, xsS := q, xsW := true }

/-- SM.s, XS.s, status and result after one instruction. -/
def outcomeOf (i : Instr) (s : State) : Option (Word × Quad × Option Response) :=
  (nextState (exec i s)).map fun t => (t.smS, t.xsS, t.response)

/-- OK with a result. -/
def okWith (v : Word) : Option Response := some ⟨some .ok, some v⟩

/-- OK with r not driven. -/
def okNothing : Option Response := some ⟨some .ok, none⟩

/-! ## WellFormed: an ill-formed byte for each check -/

theorem test_reserved_bit_refused :
    Command.reservedClear ⟨0x94, Quad.zero⟩ = false ∧ decode ⟨0x94, Quad.zero⟩ = none := by decide
theorem test_function_refused :
    Command.functionLegal ⟨0x05, Quad.zero⟩ = false ∧ decode ⟨0x05, Quad.zero⟩ = none := by decide
theorem test_word_index_refused :
    Command.wordIndexLegal ⟨0x35, Quad.zero⟩ = false ∧ decode ⟨0x35, Quad.zero⟩ = none := by decide
theorem test_sm_read_word_index_refused : decode ⟨0x24, Quad.zero⟩ = none := by decide

/-! ## Decode: every row, its byte written out as reserved, W, G, F -/

theorem test_decode_sm_seed : decode ⟨0b0_00_0_0001, ⟨7, 8, 9, 10⟩⟩ = some (.smSeed 7) := by decide
theorem test_decode_sm_next : decode ⟨0b0_00_0_0010, ⟨7, 8, 9, 10⟩⟩ = some .smNext := by decide
theorem test_decode_sm_next_double : decode ⟨0b0_00_0_0011, ⟨7, 8, 9, 10⟩⟩ = some .smNextDouble := by decide
theorem test_decode_sm_read : decode ⟨0b0_00_0_0100, ⟨7, 8, 9, 10⟩⟩ = some .smRead := by decide
theorem test_decode_xs_seed : decode ⟨0b0_00_1_0001, ⟨7, 8, 9, 10⟩⟩ = some (.xsSeed 7 8 9 10) := by decide
theorem test_decode_xs_next : decode ⟨0b0_00_1_0010, ⟨7, 8, 9, 10⟩⟩ = some .xsNext := by decide
theorem test_decode_xs_next_double : decode ⟨0b0_00_1_0011, ⟨7, 8, 9, 10⟩⟩ = some .xsNextDouble := by decide
theorem test_decode_xs_read0 : decode ⟨0b0_00_1_0100, ⟨7, 8, 9, 10⟩⟩ = some .xsRead0 := by decide
theorem test_decode_xs_read1 : decode ⟨0b0_01_1_0100, ⟨7, 8, 9, 10⟩⟩ = some .xsRead1 := by decide
theorem test_decode_xs_read2 : decode ⟨0b0_10_1_0100, ⟨7, 8, 9, 10⟩⟩ = some .xsRead2 := by decide
theorem test_decode_xs_read3 : decode ⟨0b0_11_1_0100, ⟨7, 8, 9, 10⟩⟩ = some .xsRead3 := by decide
theorem test_decode_xs_jump : decode ⟨0b0_00_1_0101, ⟨7, 8, 9, 10⟩⟩ = some .xsJump := by decide
theorem test_decode_xs_long_jump : decode ⟨0b0_00_1_0110, ⟨7, 8, 9, 10⟩⟩ = some .xsLongJump := by decide

/-- The host's numbering: the opcode byte in bits 7..0, d[0] from bit 8 on. -/
theorem test_table_word_operands : decodeTableWord 72 0x0123456789ABCDEF01 = some (.smSeed 0x0123456789ABCDEF) := by
  decide

/-! ## Results -/

/-- F3: a seed needs no written flag. -/
theorem test_sm_seed : (nextState (exec (.smSeed 5) State.reset)).map (fun t => (t.smS, t.smW, t.fault, t.response))
    = some (5, true, none, okNothing) := by decide
/-- M1 step 1 and S1. -/
theorem test_sm_next_zero : outcomeOf .smNext (seededState 0 Quad.zero)
    = some (0x9E3779B97F4A7C15, Quad.zero, okWith 0xE220A8397B1DCDAF) := by decide
/-- M3 step 1: the sum wraps. -/
theorem test_sm_next_wraps : outcomeOf .smNext (seededState 0xFFFFFFFFFFFFFFFF Quad.zero)
    = some (0x9E3779B97F4A7C14, Quad.zero, okWith 0xE4D971771B652C20) := by decide
/-- MD1. -/
theorem test_sm_next_double : outcomeOf .smNextDouble (seededState 0 Quad.zero)
    = some (0x9E3779B97F4A7C15, Quad.zero, okWith 0x3FEC4415072F63B8) := by decide
/-- MD2: the zero output. -/
theorem test_sm_next_double_zero : outcomeOf .smNextDouble (seededState 0x61C8864680B583EB Quad.zero)
    = some (0, Quad.zero, okWith 0) := by decide
/-- A1. -/
theorem test_sm_read : outcomeOf .smRead (seededState 0x9E3779B97F4A7C15 Quad.zero)
    = some (0x9E3779B97F4A7C15, Quad.zero, okWith 0x9E3779B97F4A7C15) := by decide
/-- R58's example. -/
theorem test_xs_seed :
    (nextState (exec (.xsSeed 1 2 3 4) State.reset)).map (fun t => (t.xsS, t.xsW, t.fault, t.response))
    = some (⟨1, 2, 3, 4⟩, true, none, okNothing) := by decide
/-- X2 step 1. -/
theorem test_xs_next : outcomeOf .xsNext
      (seededState 0 ⟨0xE220A8397B1DCDAF, 0x6E789E6AA1B965F4, 0x06C45D188009454F, 0xF88BB8A8724C81EC⟩)
    = some (0, ⟨0x74D38EFBA8E829B7, 0x8A9C6B4B5AADED14, 0xD831B65330FC88E0, 0xBC8312DE64D85A7E⟩,
        okWith 0xDAAC60E1ED6A4F9B) := by decide
/-- X5 step 1: the order of the lines. -/
theorem test_xs_next_order : outcomeOf .xsNext (seededState 0 ⟨0, 1, 0, 0⟩)
    = some (0, ⟨1, 1, 0x20000, 0x0000200000000000⟩, okWith 0) := by decide
/-- XD2. -/
theorem test_xs_next_double : outcomeOf .xsNextDouble
      (seededState 0 ⟨0xFFFFFFFFFFFFFFFF, 0, 0, 0xFFFFFFFFFFFFFFFF⟩)
    = some (0, ⟨0, 0xFFFFFFFFFFFFFFFF, 0xFFFFFFFFFFFFFFFF, 0xFFFFFFFFFFFFFFFF⟩, okWith 0x3FEFFFFFFFFFFFFE) := by
  decide

/-- The state of A2 to A5. -/
def readState : State := seededState 0 ⟨0x7, 0x0, 0x40002, 0x0000C00000000000⟩

/-- A2. -/
theorem test_xs_read0 : outcomeOf .xsRead0 readState = some (0, readState.xsS, okWith 0x7) := by decide
/-- A3. -/
theorem test_xs_read1 : outcomeOf .xsRead1 readState = some (0, readState.xsS, okWith 0x0) := by decide
/-- A4. -/
theorem test_xs_read2 : outcomeOf .xsRead2 readState = some (0, readState.xsS, okWith 0x40002) := by decide
/-- A5. -/
theorem test_xs_read3 : outcomeOf .xsRead3 readState = some (0, readState.xsS, okWith 0x0000C00000000000) := by decide

set_option maxRecDepth 20000 in
/-- J1, XS_JUMP. -/
theorem test_xs_jump : outcomeOf .xsJump (seededState 0 ⟨1, 2, 3, 4⟩)
    = some (0, ⟨0x8C7A153956B5F3D1, 0x701F1A713401D85E, 0x6527F66A65469085, 0x8386B786C4408050⟩, okNothing) := by
  decide
set_option maxRecDepth 20000 in
/-- J4, XS_LONG_JUMP: column 0 of M^(2^192). -/
theorem test_xs_long_jump : outcomeOf .xsLongJump (seededState 0 ⟨1, 0, 0, 0⟩)
    = some (0, ⟨0xCE29BECFFF66233D, 0x2B7F3B62D5A6F2C5, 0x92363EACD09910B7, 0xD92A5D2281721D7F⟩, okNothing) := by
  decide

set_option maxRecDepth 20000 in
/-- R94: the jump tables have 32 + 30 + 29 + 31 and 45 + 26 + 27 + 30 set bits. -/
theorem test_table_bit_counts :
    ((List.range 256).filter (tableBit Config.jumpTable)).length = 122 ∧
    ((List.range 64).filter (tableBit Config.jumpTable)).length = 32 ∧
    ((List.range 256).filter (tableBit Config.longJumpTable)).length = 128 ∧
    ((List.range 64).filter (tableBit Config.longJumpTable)).length = 45 := by decide

/-- D3, D4, D7, D8, D11, D13 and D14. -/
theorem test_converter :
    toUnitDouble 0x0000000000000FFF = 0 ∧ toUnitDouble 0x0000000000001000 = 0x3CB0000000000000 ∧
    toUnitDouble 0x0000000000FFF000 = 0x3D6FFE0000000000 ∧ toUnitDouble 0x0010000000000000 = 0x3F30000000000000 ∧
    toUnitDouble 0x8000000000001000 = 0x3FE0000000000002 ∧ toUnitDouble 0xFFFFFFFFFFFFFFFF = 0x3FEFFFFFFFFFFFFE ∧
    toUnitDouble 0xE220A8397B1DCDAF = 0x3FEC4415072F63B8 := by decide

/-! ## Faults and reset -/

/-- F1. -/
theorem test_unseeded_sm : (nextState (step (State.reset.withFetchWord 8 0x02))).map (fun t => (t.fault, t.smW))
    = some (some (.unseeded .sm), false) := by decide
/-- F2. -/
theorem test_unseeded_xs : (nextState (step (State.reset.withFetchWord 8 0x15))).map (fun t => (t.fault, t.xsW))
    = some (some (.unseeded .xs), false) := by decide
/-- F8. -/
theorem test_illegal : (nextState (step (State.reset.withFetchWord 8 0x94))).map (fun t => (t.fault, t.response))
    = some (some (.illegalCommand 0x94), some ⟨some .illegal, none⟩) := by decide
/-- F9: the first fault is kept. -/
theorem test_first_fault_kept :
    (nextState (step (State.withFetchWord { State.reset with fault := some (.unseeded .sm) } 8 0x05))).map State.fault
    = some (some (.unseeded .sm)) := by decide
/-- P6 lines 2 and 4: the block goes on after a fault. -/
theorem test_runs_after_fault :
    (nextState (exec .xsNext { seededState 0 ⟨1, 2, 3, 4⟩ with fault := some (.unseeded .xs) })).map
      (fun t => (t.response, t.xsS, t.fault))
    = some (okWith 5, ⟨7, 0, 0x40002, 0x0000C00000000000⟩, some (.unseeded .xs)) := by decide
/-- R88: no partial effect, no response. -/
theorem test_reset_during_command :
    (nextState (step { seededState 3 ⟨1, 2, 3, 4⟩ with inputs := [.resetDuring ⟨0x15, Quad.zero⟩] })).map
      (fun t => (t.smW, t.xsW, t.fault, t.response)) = some (false, false, none, none) := by decide

/-! ## The host's command lines (R46) -/

theorem test_parse_seed : parseLine "XS_SEED 1, 0x2, c, 4 ; four words"
    = some (some ⟨none, .xsSeed, [.num 1, .num 2, .name "c", .num 4]⟩) := by decide
theorem test_parse_binding : parseLine "  a = SM_NEXT" = some (some ⟨some "a", .smNext, []⟩) := by decide
theorem test_parse_comment : parseLine "; nothing" = some none := by decide
theorem test_parse_unknown_refused : parseLine "SM_JUMP" = none := by decide
/-- The listings of P5 and P7 (95_test_vectors.md), and a command of R42 as one line. -/
theorem test_parse_save : parseLines "XS_SAVE" = some (xsSave "a" "b" "c" "e") := by decide
theorem test_parse_save_range : parseLines "w0..w3 = XS_SAVE" = some (xsSave "w0" "w1" "w2" "w3") := by decide
theorem test_parse_seed_from_sm : parseLines "XS_SEED_FROM_SM 0" = some (xsSeedFromSm (.num 0) "a" "b" "c" "e") := by
  decide
theorem test_parse_lines_command : parseLines "a = SM_NEXT ; one" = some [⟨some "a", .smNext, []⟩] := by decide
theorem test_parse_save_one_name_refused : parseLines "w = XS_SAVE" = none := by decide
theorem test_assemble_read : (assemble [] ⟨some "x", .xsRead, [.num 2]⟩).map encodeOp = some 0x54 := by decide
theorem test_assemble_read_index_refused : assemble [] ⟨none, .xsRead, [.num 4]⟩ = none := by decide
theorem test_assemble_wide_number_refused : assemble [] ⟨none, .smSeed, [.num (2 ^ 64)]⟩ = none := by decide
theorem test_assemble_operand_count_refused : assemble [] ⟨none, .smNext, [.num 1]⟩ = none := by decide
theorem test_assemble_unbound_name_refused : assemble [] ⟨none, .smSeed, [.name "v"]⟩ = none := by decide
theorem test_assemble_binding_refused : assemble [] ⟨some "x", .smSeed, [.num 1]⟩ = none := by decide

/-! ## Witnesses: states and operands that meet the statements' hypotheses -/

/-- A state with a command at the head of the port. -/
def waiting (op : Byte) (s : State) : State := s.offer ⟨op, Quad.zero⟩

theorem witness_IllegalBytesAreTheFiveGroups :
    (0x00 ∈ illegalGroup 1 ∧ 0xFF ∈ illegalGroup 0 ∧ 0x6F ∈ illegalGroup 2 ∧ 0x7F ∈ illegalGroup 3 ∧
      0x76 ∈ illegalGroup 4) ∧ decode ⟨0x76, Quad.zero⟩ = none ∧ ∀ k, 0x74 ∉ illegalGroup k := by decide
theorem witness_UnreadOperandsNeverMatter :
    (0x02 : Byte) ≠ 0x01 ∧ (0x02 : Byte) ≠ 0x11 ∧ (⟨1, 2, 3, 4⟩ : Quad).w0 = (⟨1, 0, 0, 0⟩ : Quad).w0 := by decide
theorem witness_DecodeAndEncodeAgree :
    decode ⟨0x01, ⟨1, 2, 3, 4⟩⟩ = some (.smSeed 1) ∧ decode ⟨0x80, Quad.zero⟩ = none := by decide
theorem witness_AssemblerFollowsTheSyntax :
    operandWord [] (.num (2 ^ 64 - 1)) = some 0xFFFFFFFFFFFFFFFF ∧ operandWord [("a", 1)] (.name "a") = some 1 ∧
    operandWord [] (.num 0) = some 0 ∧ [AsmOperand.num 1, .num 2, .num 3].length ≠ 4 ∧
    ([] : List AsmOperand).length ≠ 1 ∧ [AsmOperand.num 1].length ≠ 0 ∧
    AsmOperand.num (2 ^ 64) ∈ [AsmOperand.num 1, .num 2, .num 3, .num (2 ^ 64)] ∧
    AsmOperand.name "v" ∈ [AsmOperand.name "v"] ∧ List.lookup "v" ([("a", 1)] : HostNames) = none ∧
    Mnemonic.xsRead ∈ [Mnemonic.smNext, .smNextDouble, .smRead, .xsNext, .xsNextDouble, .xsRead] := by decide
theorem witness_StepRunsTheDecodedInstruction :
    (waiting 0x12 State.reset).inputs = .command ⟨0x12, Quad.zero⟩ :: [] ∧
    decode ⟨0x12, Quad.zero⟩ = some .xsNext := by decide
theorem witness_FetchWordRunsNext : decodeTableWord 8 0x16 = some .xsLongJump := by decide
theorem witness_IllegalByteChangesNothing :
    (waiting 0x05 State.reset).inputs = .command ⟨0x05, Quad.zero⟩ :: [] ∧ decode ⟨0x05, Quad.zero⟩ = none ∧
    (waiting 0x05 State.reset).fault = none ∧
    (waiting 0x05 (State.reset.record (.unseeded .sm))).fault = some (.unseeded .sm) := by decide
theorem witness_ResetAssertionClears :
    (State.reset.awaiting [.reset]).inputs = [.reset] ∧
    (State.reset.awaiting [.resetDuring ⟨0x02, Quad.zero⟩]).inputs = [.resetDuring ⟨0x02, Quad.zero⟩] := by decide
theorem witness_StepWithNothingPresentedStops : State.reset.inputs = [] := by decide
/-- For the commands' statements: a seeded and an unseeded state of each generator. -/
theorem witness_seeded_and_unseeded :
    (seededState 0 ⟨1, 2, 3, 4⟩).smW = true ∧ (seededState 0 ⟨1, 2, 3, 4⟩).xsW = true ∧
    State.reset.smW = false ∧ State.reset.xsW = false := by decide
/-- For XsPeriodIsTwoToThe256MinusOne, JumpsMoveNonZeroStates and StreamsAfterAJumpDoNotOverlap. -/
theorem witness_nonzero_state : (⟨1, 0, 0, 0⟩ : Quad) ≠ Quad.zero ∧ (0 : Nat) < 2 ^ 128 ∧ 2 ^ 128 - 1 < 2 ^ 128 := by
  decide
theorem witness_LiveStreamsStayLive :
    State.live (seededState 0 ⟨1, 2, 3, 4⟩) ∧ (∀ a b c e, Instr.xsRead0 ≠ .xsSeed a b c e) ∧
    ∃ t, exec .xsRead0 (seededState 0 ⟨1, 2, 3, 4⟩) = .next t := ⟨⟨rfl, by decide⟩, nofun, ⟨_, rfl⟩⟩
theorem witness_ConverterMonotoneAndFlat : (0xFFF : Word).toNat ≤ (0x1000 : Word).toNat := by decide
theorem witness_ConverterRangeAndFields : toUnitDouble 0x1000 ≠ 0 := by decide
theorem witness_WritesFollowTheTable :
    (∃ t, exec .xsRead0 (seededState 0 ⟨1, 2, 3, 4⟩) = .next t) ∧
    (seededState 0 ⟨1, 2, 3, 4⟩).seeded (genOf .xsRead0) = true := ⟨⟨_, rfl⟩, rfl⟩
theorem witness_CommandsNeverSeeTheOtherGenerator :
    (∃ t, exec .smRead (seededState 3 ⟨1, 2, 3, 4⟩) = .next t) ∧
    (∃ t, exec .smRead (seededState 3 Quad.zero) = .next t) ∧ isSm .smRead = true ∧
    (∃ t, exec .xsRead0 (seededState 3 ⟨1, 2, 3, 4⟩) = .next t) ∧
    (∃ t, exec .xsRead0 (seededState 4 ⟨1, 2, 3, 4⟩) = .next t) ∧ isSm .xsRead0 = false :=
  ⟨⟨_, rfl⟩, ⟨_, rfl⟩, rfl, ⟨_, rfl⟩, ⟨_, rfl⟩, rfl⟩
theorem witness_WrittenFlagsFollowSeedsAndReset :
    (nextState (step (waiting 0x01 State.reset))).map State.smW = some true ∧
    (nextState (step (waiting 0x11 State.reset))).map State.xsW = some true ∧
    (nextState (step (waiting 0x12 (seededState 0 ⟨1, 2, 3, 4⟩)))).map State.xsW = some true := by decide
theorem witness_FirstFaultIsKeptUntilReset :
    (nextState (step (waiting 0x05 (State.reset.record (.unseeded .sm))))).isSome = true ∧
    (nextState (step (waiting 0x05 State.reset))).map State.fault = some (some (.illegalCommand 0x05)) := by decide
theorem witness_EveryCommandHasOneOutcome :
    decode ⟨0x05, Quad.zero⟩ = none ∧ decode ⟨0x11, Quad.zero⟩ = some (.xsSeed 0 0 0 0) ∧
    isSeed (.xsSeed 0 0 0 0) = true ∧ decode ⟨0x12, Quad.zero⟩ = some .xsNext ∧ isSeed .xsNext = false ∧
    State.reset.seeded (genOf .xsNext) = false := by decide
theorem witness_StepKeepsTheInvariant :
    Inv (waiting 0x05 State.reset) ∧ ∃ t, step (waiting 0x05 State.reset) = .next t :=
  ⟨⟨nofun, nofun, nofun⟩, ⟨_, rfl⟩⟩
theorem witness_ReadsAndSeedsAreIdempotent :
    isSeed (.smSeed 1) = true ∧ (∃ t, exec (.smSeed 1) State.reset = .next t) ∧
    Instr.xsRead3 ∈ [Instr.smRead, .xsRead0, .xsRead1, .xsRead2, .xsRead3] ∧
    ∃ t, exec .xsRead3 (seededState 0 ⟨1, 2, 3, 4⟩) = .next t := ⟨rfl, ⟨_, rfl⟩, by decide, ⟨_, rfl⟩⟩
theorem witness_AllZeroStateIsAZeroStream :
    isSm .xsNext = false ∧ isSeed .xsNext = false ∧ (seededState 0 Quad.zero).xsW = true ∧
    (seededState 0 Quad.zero).xsS = Quad.zero := by decide
theorem witness_SaveAndRestoreIsExact :
    (seededState 3 ⟨1, 2, 3, 4⟩).smW = true ∧ (∀ c ∈ [encode .smNext], smCommand c) ∧
    (seededState 3 ⟨1, 2, 3, 4⟩).xsW = true ∧ (∀ c ∈ [encode .xsNext], xsCommand c) :=
  ⟨rfl, fun c h => ⟨.smNext, by rw [List.mem_singleton.1 h]; decide, rfl⟩, rfl,
    fun c h => ⟨.xsNext, by rw [List.mem_singleton.1 h]; decide, rfl⟩⟩
theorem witness_PseudoInstructionsExpandAsStated :
    ["a", "b", "c", "e"].Nodup ∧ operandWord [] (.num (2 ^ 64 - 1)) = some 0xFFFFFFFFFFFFFFFF ∧
    operandWord [("a", 7)] (.name "a") = some 7 ∧ (seededState 3 ⟨1, 2, 3, 4⟩).xsW = true := by decide
theorem witness_InterleavingsOfSeparateGeneratorsAgree :
    (∀ c ∈ [encode .smNext], smCommand c) ∧ (∀ c ∈ [encode .xsNext], xsCommand c) ∧
    Interleaves [encode .smNext] [encode .xsNext] [encode .xsNext, encode .smNext] :=
  ⟨witness_SaveAndRestoreIsExact.2.1, witness_SaveAndRestoreIsExact.2.2.2, .right _ (.left _ .nil)⟩
theorem witness_InstancesAreIndependent :
    (systemStep 1 [State.reset, waiting 0x01 State.reset]).isSome = true ∧ (0 : Nat) ≠ 1 := by decide

end Sys2Proof.Tests
end

namespace Sys2Proof.Machine

/-! ## What an instruction does to its own generator

One transfer function per generator, tied to `exec` by one equation: from these follow the frame of every instruction
(R17), the independence of the two generators (R18) and the life of the written flags (R19). -/

/-- The new SM.s and the result word of a SplitMix64 instruction that executes on SM.s = `x` (R52, R53, R54, R74). -/
def smEffect (i : Instr) (x : Word) : Word × Option Word :=
  match i with
  | .smSeed v => (v, none)
  | .smNext => ((smStep x).1, some (smStep x).2)
  | .smNextDouble => ((smStep x).1, some (toUnitDouble (smStep x).2))
  | .smRead => (x, some x)
  | _ => (x, none)

/-- The new XS.s and the result word of a Xoshiro256+ instruction that executes on XS.s = `q` (R58, R59, R60, R65, R66,
R75). -/
def xsEffect (i : Instr) (q : Quad) : Quad × Option Word :=
  match i with
  | .xsSeed a b c e => (⟨a, b, c, e⟩, none)
  | .xsNext => ((xsStep q).1, some (xsStep q).2)
  | .xsNextDouble => ((xsStep q).1, some (toUnitDouble (xsStep q).2))
  | .xsRead0 => (q, some (wordAt q 0))
  | .xsRead1 => (q, some (wordAt q 1))
  | .xsRead2 => (q, some (wordAt q 2))
  | .xsRead3 => (q, some (wordAt q 3))
  | .xsJump => (jumpEngine q Config.jumpTable, none)
  | .xsLongJump => (jumpEngine q Config.longJumpTable, none)
  | _ => (q, none)

theorem smEffect_fst_of_not_writer {i : Instr} (hseed : ∀ v, i ≠ .smSeed v) (hnext : i ≠ .smNext)
    (hdouble : i ≠ .smNextDouble) (x : Word) : (smEffect i x).1 = x := by
  cases i with
  | smSeed v => exact absurd rfl (hseed v)
  | smNext => exact absurd rfl hnext
  | smNextDouble => exact absurd rfl hdouble
  | _ => rfl

theorem xsEffect_fst_of_not_writer {i : Instr} (hseed : ∀ a b c e, i ≠ .xsSeed a b c e) (hnext : i ≠ .xsNext)
    (hdouble : i ≠ .xsNextDouble) (hjump : i ≠ .xsJump) (hlong : i ≠ .xsLongJump) (q : Quad) :
    (xsEffect i q).1 = q := by
  cases i with
  | xsSeed a b c e => exact absurd rfl (hseed a b c e)
  | xsNext => exact absurd rfl hnext
  | xsNextDouble => exact absurd rfl hdouble
  | xsJump => exact absurd rfl hjump
  | xsLongJump => exact absurd rfl hlong
  | _ => rfl

theorem State.markSm_putSm_of_seeded {s : State} (v : Word) (h : s.smW = true) :
    (s.putSm v).markSm = s.putSm v := by
  simp [State.markSm, State.putSm, h]

theorem State.markXs_putXs_of_seeded {s : State} (q : Quad) (h : s.xsW = true) :
    (s.putXs q).markXs = s.putXs q := by
  simp [State.markXs, State.putXs, h]

/-- A SplitMix64 instruction that executes: its effect on SM.s, the flag set, and the result. -/
theorem exec_sm_of_executes {i : Instr} {s : State} (hi : isSm i = true) (h : isSeed i = true ∨ s.smW = true) :
    exec i s = complete (smEffect i s.smS).2 (s.putSm (smEffect i s.smS).1).markSm := by
  have hwrite := withSm_of_seeded (s := s) fun x => complete (smEffect i x).2 (s.putSm (smEffect i x).1)
  cases i with
  | smSeed v => rfl
  | smNext | smNextDouble =>
    have hw : s.smW = true := by simpa [isSeed] using h
    rw [State.markSm_putSm_of_seeded _ hw]
    exact hwrite hw
  | smRead =>
    have hw : s.smW = true := by simpa [isSeed] using h
    rw [State.markSm_putSm_of_seeded _ hw]
    exact withSm_of_seeded (fun x => complete (some x) s) hw
  | _ => cases hi

/-- A Xoshiro256+ instruction that executes: its effect on XS.s, the flag set, and the result. -/
theorem exec_xs_of_executes {i : Instr} {s : State} (hi : isSm i = false) (h : isSeed i = true ∨ s.xsW = true) :
    exec i s = complete (xsEffect i s.xsS).2 (s.putXs (xsEffect i s.xsS).1).markXs := by
  have hwrite := withXs_of_seeded (s := s) fun q => complete (xsEffect i q).2 (s.putXs (xsEffect i q).1)
  cases i with
  | xsSeed a b c e => rfl
  | xsNext | xsNextDouble | xsJump | xsLongJump =>
    have hw : s.xsW = true := by simpa [isSeed] using h
    rw [State.markXs_putXs_of_seeded _ hw]
    exact hwrite hw
  | xsRead0 | xsRead1 | xsRead2 | xsRead3 =>
    have hw : s.xsW = true := by simpa [isSeed] using h
    rw [State.markXs_putXs_of_seeded _ hw]
    exact withXs_of_seeded (fun q => complete (some (wordAt q _)) s) hw
  | _ => cases hi

/-- An instruction that reads an unseeded generator takes Unseeded (R20, R79). -/
theorem exec_of_unseeded {i : Instr} {s : State} (hseed : isSeed i = false) (h : s.seeded (genOf i) = false) :
    exec i s = takeUnseeded (genOf i) s := by
  obtain ⟨-, -, he⟩ | ⟨hx, -⟩ := exec_outcome i s
  · exact he
  · simp [hseed, h] at hx

/-- Everything an instruction can have done, by its generator. -/
theorem exec_next_cases {i : Instr} {s t : State} (h : exec i s = .next t) :
    (isSeed i = false ∧ s.seeded (genOf i) = false ∧
      t = (s.record (.unseeded (genOf i))).respond unseededResponse) ∨
    (isSm i = true ∧ (isSeed i = true ∨ s.smW = true) ∧
      t = ((s.putSm (smEffect i s.smS).1).markSm).respond (okResponse (smEffect i s.smS).2)) ∨
    (isSm i = false ∧ (isSeed i = true ∨ s.xsW = true) ∧
      t = ((s.putXs (xsEffect i s.xsS).1).markXs).respond (okResponse (xsEffect i s.xsS).2)) := by
  by_cases hx : isSeed i = true ∨ s.seeded (genOf i) = true
  · cases hi : isSm i with
    | true =>
      have hx : isSeed i = true ∨ s.smW = true := by simpa [genOf, hi, State.seeded] using hx
      rw [exec_sm_of_executes hi hx] at h
      exact .inr (.inl ⟨rfl, hx, complete_eq_next h⟩)
    | false =>
      have hx : isSeed i = true ∨ s.xsW = true := by simpa [genOf, hi, State.seeded] using hx
      rw [exec_xs_of_executes hi hx] at h
      exact .inr (.inr ⟨rfl, hx, complete_eq_next h⟩)
  · obtain ⟨hseed, hw⟩ : isSeed i = false ∧ s.seeded (genOf i) = false := by simpa using hx
    rw [exec_of_unseeded hseed hw] at h
    exact .inl ⟨hseed, hw, takeUnseeded_eq_next h⟩

/-! ## The frame of an instruction -/

section Frame

variable {i : Instr} {s t : State}

theorem exec_smS_of_not_writer (h : exec i s = .next t) (hseed : ∀ v, i ≠ .smSeed v) (hnext : i ≠ .smNext)
    (hdouble : i ≠ .smNextDouble) : t.smS = s.smS := by
  obtain ⟨-, -, rfl⟩ | ⟨-, -, rfl⟩ | ⟨-, -, rfl⟩ := exec_next_cases h
  · simp
  · simp [smEffect_fst_of_not_writer hseed hnext hdouble]
  · simp

theorem exec_xsS_of_not_writer (h : exec i s = .next t) (hseed : ∀ a b c e, i ≠ .xsSeed a b c e) (hnext : i ≠ .xsNext)
    (hdouble : i ≠ .xsNextDouble) (hjump : i ≠ .xsJump) (hlong : i ≠ .xsLongJump) : t.xsS = s.xsS := by
  obtain ⟨-, -, rfl⟩ | ⟨-, -, rfl⟩ | ⟨-, -, rfl⟩ := exec_next_cases h
  · simp
  · simp
  · simp [xsEffect_fst_of_not_writer hseed hnext hdouble hjump hlong]

/-- SM.w after an instruction: set by SM_SEED, and otherwise as it was (R19). -/
theorem exec_smW (h : exec i s = .next t) : t.smW = (s.smW || (isSeed i && isSm i)) := by
  obtain ⟨hseed, -, rfl⟩ | ⟨hi, hx, rfl⟩ | ⟨hi, -, rfl⟩ := exec_next_cases h
  · simp [hseed]
  · simpa [hi] using hx.symm
  · simp [hi]

/-- XS.w after an instruction: set by XS_SEED, and otherwise as it was (R19). -/
theorem exec_xsW (h : exec i s = .next t) : t.xsW = (s.xsW || (isSeed i && !isSm i)) := by
  obtain ⟨hseed, -, rfl⟩ | ⟨hi, -, rfl⟩ | ⟨hi, hx, rfl⟩ := exec_next_cases h
  · simp [hseed]
  · simp [hi]
  · simpa [hi] using hx.symm

theorem exec_fault_of_executes (h : exec i s = .next t) (hx : isSeed i = true ∨ s.seeded (genOf i) = true) :
    t.fault = s.fault := by
  obtain ⟨hseed, hw, -⟩ | ⟨-, -, rfl⟩ | ⟨-, -, rfl⟩ := exec_next_cases h
  · simp [hseed, hw] at hx
  · simp
  · simp

theorem exec_inputs (h : exec i s = .next t) : t.inputs = s.inputs := by
  obtain ⟨-, -, rfl⟩ | ⟨-, -, rfl⟩ | ⟨-, -, rfl⟩ := exec_next_cases h <;> simp

theorem exec_freeIndex (h : exec i s = .next t) : t.freeIndex = s.freeIndex := by
  obtain ⟨-, -, rfl⟩ | ⟨-, -, rfl⟩ | ⟨-, -, rfl⟩ := exec_next_cases h <;> simp

end Frame

theorem isSeed_and_isSm_eq_false {i : Instr} (h : ∀ v, i ≠ .smSeed v) : (isSeed i && isSm i) = false := by
  cases i with
  | smSeed v => exact absurd rfl (h v)
  | _ => rfl

theorem isSeed_and_not_isSm_eq_false {i : Instr} (h : ∀ a b c e, i ≠ .xsSeed a b c e) :
    (isSeed i && !isSm i) = false := by
  cases i with
  | xsSeed a b c e => exact absurd rfl (h a b c e)
  | _ => rfl

/-- Settles O44, clause by clause from the frame of `exec`. -/
theorem writesFollowTheTable : Obligations.WritesFollowTheTable := by
  intro i s t h
  refine ⟨exec_smS_of_not_writer h, exec_xsS_of_not_writer h, fun hseed => ?_, fun hseed => ?_,
    exec_fault_of_executes h, exec_inputs h, exec_freeIndex h⟩
  · rw [exec_smW h, isSeed_and_isSm_eq_false hseed, Bool.or_false]
  · rw [exec_xsW h, isSeed_and_not_isSm_eq_false hseed, Bool.or_false]

/-! ## Independence of the generators -/

/-- Whether a SplitMix64 instruction executes, and with what effect, is read off SM.s and SM.w alone. -/
theorem exec_sm_agrees {i : Instr} {s s' t t' : State} (hi : isSm i = true) (hS : s.smS = s'.smS)
    (hW : s.smW = s'.smW) (h : exec i s = .next t) (h' : exec i s' = .next t') :
    t.smS = t'.smS ∧ t.smW = t'.smW ∧ t.response = t'.response ∧ t.xsS = s.xsS ∧ t.xsW = s.xsW := by
  have hg : genOf i = .sm := by simp [genOf, hi]
  by_cases hx : isSeed i = true ∨ s.smW = true
  · rw [exec_sm_of_executes hi hx] at h
    rw [exec_sm_of_executes hi (hW ▸ hx), ← hS] at h'
    obtain rfl := complete_eq_next h
    obtain rfl := complete_eq_next h'
    simp
  · obtain ⟨hseed, hw⟩ : isSeed i = false ∧ s.smW = false := by simpa using hx
    rw [exec_of_unseeded hseed (by simp [hg, State.seeded, hw])] at h
    rw [exec_of_unseeded hseed (by simp [hg, State.seeded, ← hW, hw])] at h'
    obtain rfl := takeUnseeded_eq_next h
    obtain rfl := takeUnseeded_eq_next h'
    simp [hS, hW]

/-- Whether a Xoshiro256+ instruction executes, and with what effect, is read off XS.s and XS.w alone. -/
theorem exec_xs_agrees {i : Instr} {s s' t t' : State} (hi : isSm i = false) (hS : s.xsS = s'.xsS)
    (hW : s.xsW = s'.xsW) (h : exec i s = .next t) (h' : exec i s' = .next t') :
    t.xsS = t'.xsS ∧ t.xsW = t'.xsW ∧ t.response = t'.response ∧ t.smS = s.smS ∧ t.smW = s.smW := by
  have hg : genOf i = .xs := by simp [genOf, hi]
  by_cases hx : isSeed i = true ∨ s.xsW = true
  · rw [exec_xs_of_executes hi hx] at h
    rw [exec_xs_of_executes hi (hW ▸ hx), ← hS] at h'
    obtain rfl := complete_eq_next h
    obtain rfl := complete_eq_next h'
    simp
  · obtain ⟨hseed, hw⟩ : isSeed i = false ∧ s.xsW = false := by simpa using hx
    rw [exec_of_unseeded hseed (by simp [hg, State.seeded, hw])] at h
    rw [exec_of_unseeded hseed (by simp [hg, State.seeded, ← hW, hw])] at h'
    obtain rfl := takeUnseeded_eq_next h
    obtain rfl := takeUnseeded_eq_next h'
    simp [hS, hW]

/-- Settles O45: one agreement lemma per generator. -/
theorem commandsNeverSeeTheOtherGenerator : Obligations.CommandsNeverSeeTheOtherGenerator :=
  fun _ _ _ _ _ h h' => ⟨fun hi hS hW => exec_sm_agrees hi hS hW h h', fun hi hS hW => exec_xs_agrees hi hS hW h h'⟩

/-! ## The decoder and the seeds' bytes -/

/-- The fields of R38 make up the byte. -/
theorem op_eq_of_fields {op op' : Byte} (h7 : op.getLsbD 7 = op'.getLsbD 7) (hG : opG op = opG op')
    (hW : opW op = opW op') (hF : opF op = opF op') : op = op' := by
  apply BitVec.eq_of_toNat_eq
  simp only [opG, opW, opF, BitVec.getLsbD, Nat.testBit_eq_decide_div_mod_eq, decide_eq_decide,
    BitVec.extractLsb'_toNat, Nat.shiftRight_eq_div_pow] at h7 hG hW hF
  omega

theorem opW_lt (op : Byte) : opW op < 4 := (op.extractLsb' 5 2).isLt

/-- The byte of a SplitMix64 instruction has the fields the decoder read (R42, R43). -/
theorem fields_of_decodeSm {f : Nat} {d : Quad} {i : Instr} (h : decodeSm f d = some i) :
    (encodeOp i).getLsbD 7 = false ∧ opG (encodeOp i) = false ∧ opW (encodeOp i) = 0 ∧ opF (encodeOp i) = f := by
  unfold decodeSm at h
  split at h <;> cases h <;> simp [encodeOp, opG, opW, opF]

/-- The byte of XS_READ w has w in its word field (R42, R75). -/
theorem fields_of_xsReadOf {w : Nat} (hw : w < 4) :
    (encodeOp (xsReadOf w)).getLsbD 7 = false ∧ opG (encodeOp (xsReadOf w)) = true ∧
      opW (encodeOp (xsReadOf w)) = w ∧ opF (encodeOp (xsReadOf w)) = 4 := by
  interval_cases w <;> exact ⟨rfl, rfl, rfl, rfl⟩

/-- The byte of a Xoshiro256+ instruction has the fields the decoder read (R42, R43). -/
theorem fields_of_decodeXs {f w : Nat} {d : Quad} {i : Instr} (hw : w < 4) (h : decodeXs f w d = some i) :
    (encodeOp i).getLsbD 7 = false ∧ opG (encodeOp i) = true ∧ opW (encodeOp i) = w ∧ opF (encodeOp i) = f := by
  unfold decodeXs at h
  split at h
  case h_4 => cases h; exact fields_of_xsReadOf hw
  case h_7 => cases h
  all_goals
    split at h <;> cases h
    simp [*, encodeOp, opG, opW, opF]

/-- A command that decodes carries its instruction's byte (R42, R49). -/
theorem op_of_decode {c : Command} {i : Instr} (h : decode c = some i) : c.op = encodeOp i := by
  unfold decode at h
  split at h
  · cases h
  next h7 =>
    rw [Bool.not_eq_true] at h7
    split at h
    next hG =>
      obtain ⟨e7, eG, eW, eF⟩ := fields_of_decodeXs (opW_lt c.op) h
      exact op_eq_of_fields (h7.trans e7.symm) (hG.trans eG.symm) eW.symm eF.symm
    next hG =>
      rw [Bool.not_eq_true] at hG
      split at h
      next hW =>
        obtain ⟨e7, eG, eW, eF⟩ := fields_of_decodeSm h
        exact op_eq_of_fields (h7.trans e7.symm) (hG.trans eG.symm) (hW.trans eW.symm) eF.symm
      · cases h

/-- An illegal byte is illegal whatever its operands (R39, R44). -/
theorem decode_eq_none_operands {c : Command} (h : decode c = none) (d : Quad) : decode ⟨c.op, d⟩ = none := by
  have hsome := decode_isSome_operands c.op d c.d
  rw [h] at hsome
  exact Option.not_isSome_iff_eq_none.1 (by simp [hsome])

theorem decode_smSeed (d : Quad) : decode ⟨0x01, d⟩ = some (.smSeed d.w0) := by
  simp [decode, decodeSm, opF, opG, opW]

theorem decode_xsSeed (d : Quad) : decode ⟨0x11, d⟩ = some (.xsSeed d.w0 d.w1 d.w2 d.w3) := by
  simp [decode, decodeXs, opF, opG, opW]

theorem op_ne_smSeed_of_illegal {c : Command} (h : decode c = none) : c.op ≠ 0x01 := by
  intro hop
  have hd := decode_eq_none_operands h c.d
  rw [hop, decode_smSeed] at hd
  cases hd

theorem op_ne_xsSeed_of_illegal {c : Command} (h : decode c = none) : c.op ≠ 0x11 := by
  intro hop
  have hd := decode_eq_none_operands h c.d
  rw [hop, decode_xsSeed] at hd
  cases hd

theorem isSeed_and_isSm_eq_encodeOp (i : Instr) : (isSeed i && isSm i) = (encodeOp i == 0x01) := by
  cases i <;> rfl

theorem isSeed_and_not_isSm_eq_encodeOp (i : Instr) : (isSeed i && !isSm i) = (encodeOp i == 0x11) := by
  cases i <;> rfl

/-! ## What a command's step does to the flags, the record and the response -/

section Command

variable {c : Command} {s t : State}

/-- A command is either illegal or one of the instructions. -/
theorem runCommand_cases (h : runCommand c s = .next t) :
    (decode c = none ∧ t = (s.record (.illegalCommand c.op)).respond illegalResponse) ∨
    (∃ i, decode c = some i ∧ exec i s = .next t) := by
  cases hd : decode c with
  | none => exact .inl ⟨rfl, takeIllegal_eq_next (runCommand_of_illegal hd s ▸ h)⟩
  | some i => exact .inr ⟨i, rfl, runCommand_of_decode hd s ▸ h⟩

/-- A command raises IllegalCommand of its own byte, raises Unseeded, or answers OK and leaves the record. -/
theorem runCommand_fault_response (h : runCommand c s = .next t) :
    (decode c = none ∧ t = (s.record (.illegalCommand c.op)).respond illegalResponse) ∨
    (∃ g, t = (s.record (.unseeded g)).respond unseededResponse) ∨
    (t.fault = s.fault ∧ ∃ r, t.response = some (okResponse r)) := by
  obtain hill | ⟨i, -, hex⟩ := runCommand_cases h
  · exact .inl hill
  · obtain ⟨-, -, rfl⟩ | ⟨-, -, rfl⟩ | ⟨-, -, rfl⟩ := exec_next_cases hex
    · exact .inr (.inl ⟨_, rfl⟩)
    · exact .inr (.inr ⟨rfl, _, rfl⟩)
    · exact .inr (.inr ⟨rfl, _, rfl⟩)

/-- SM.w after a command: set by the byte 0x01, and otherwise as it was (R19). -/
theorem runCommand_smW (h : runCommand c s = .next t) : t.smW = (s.smW || (c.op == 0x01)) := by
  obtain ⟨hd, rfl⟩ | ⟨i, hd, hex⟩ := runCommand_cases h
  · rw [beq_false_of_ne (op_ne_smSeed_of_illegal hd), Bool.or_false]
    simp
  · rw [exec_smW hex, isSeed_and_isSm_eq_encodeOp, op_of_decode hd]

/-- XS.w after a command: set by the byte 0x11, and otherwise as it was (R19). -/
theorem runCommand_xsW (h : runCommand c s = .next t) : t.xsW = (s.xsW || (c.op == 0x11)) := by
  obtain ⟨hd, rfl⟩ | ⟨i, hd, hex⟩ := runCommand_cases h
  · rw [beq_false_of_ne (op_ne_xsSeed_of_illegal hd), Bool.or_false]
    simp
  · rw [exec_xsW hex, isSeed_and_not_isSm_eq_encodeOp, op_of_decode hd]

variable {rest : List Input}

theorem step_smW_of_command (hin : s.inputs = .command c :: rest) (h : step s = .next t) :
    t.smW = (s.smW || (c.op == 0x01)) := by
  simpa only [State.awaiting_smW] using runCommand_smW ((step_of_command hin).symm.trans h)

theorem step_xsW_of_command (hin : s.inputs = .command c :: rest) (h : step s = .next t) :
    t.xsW = (s.xsW || (c.op == 0x11)) := by
  simpa only [State.awaiting_xsW] using runCommand_xsW ((step_of_command hin).symm.trans h)

/-- A step that sets SM.w accepted SM_SEED: a reset leaves it false, and no other command changes it. -/
theorem step_sets_smW (h : step s = .next t) (hs : s.smW = false) (ht : t.smW = true) :
    ∃ d rest, s.inputs = .command ⟨0x01, d⟩ :: rest := by
  obtain ⟨⟨op, d⟩, rest, hin, -⟩ | ⟨rest, -, rfl⟩ := step_cases h
  · obtain rfl : op = 0x01 := by simpa [hs, ht] using step_smW_of_command hin h
    exact ⟨d, rest, hin⟩
  · simp at ht

/-- A step that sets XS.w accepted XS_SEED: a reset leaves it false, and no other command changes it. -/
theorem step_sets_xsW (h : step s = .next t) (hs : s.xsW = false) (ht : t.xsW = true) :
    ∃ d rest, s.inputs = .command ⟨0x11, d⟩ :: rest := by
  obtain ⟨⟨op, d⟩, rest, hin, -⟩ | ⟨rest, -, rfl⟩ := step_cases h
  · obtain rfl : op = 0x11 := by simpa [hs, ht] using step_xsW_of_command hin h
    exact ⟨d, rest, hin⟩
  · simp at ht

/-- A command's step leaves the record, or offers it one fault, its own illegal byte or Unseeded. -/
theorem step_fault_of_command (hin : s.inputs = .command c :: rest) (h : step s = .next t) :
    t.fault = s.fault ∨ ∃ f, t.fault = keepFirst s.fault f ∧
      (f = .illegalCommand c.op ∨ f = .unseeded .sm ∨ f = .unseeded .xs) := by
  obtain ⟨-, rfl⟩ | ⟨g, rfl⟩ | ⟨hf, -⟩ := runCommand_fault_response ((step_of_command hin).symm.trans h)
  · exact .inr ⟨_, rfl, .inl rfl⟩
  · exact .inr ⟨.unseeded g, rfl, .inr (by cases g <;> simp)⟩
  · exact .inl (by simpa using hf)

end Command

/-- Settles O46, from SM.w and XS.w after a command as functions of its byte. -/
theorem writtenFlagsFollowSeedsAndReset : Obligations.WrittenFlagsFollowSeedsAndReset := by
  refine ⟨rfl, rfl, fun s t h => ⟨step_sets_smW h, step_sets_xsW h, ?_, fun d rest hin => ?_, fun d rest hin => ?_⟩⟩
  · rintro ⟨c, rest, hin⟩
    exact ⟨fun hs => by simp [step_smW_of_command hin h, hs], fun hs => by simp [step_xsW_of_command hin h, hs]⟩
  · simp [step_smW_of_command hin h]
  · simp [step_xsW_of_command hin h]

/-- Settles O47: `keepFirst` keeps a recorded fault and takes a first one. -/
theorem firstFaultIsKeptUntilReset : Obligations.FirstFaultIsKeptUntilReset := by
  refine ⟨rfl, fun s t h c rest hin => ?_⟩
  obtain hkeep | ⟨f, hf, hkind⟩ := step_fault_of_command hin h
  · exact ⟨fun g hg => hkeep.trans hg, fun hnone g hg => by simp [hkeep, hnone] at hg⟩
  · refine ⟨fun g hg => by simp [hf, hg], fun hnone g hg => ?_⟩
    obtain rfl : f = g := by simpa [hf, hnone] using hg
    exact hkind

/-! ## The invariant of the record and the response -/

section Invariant

variable {s t : State}

theorem inv_awaiting (hs : Inv s) (rest : List Input) : Inv (s.awaiting rest) :=
  ⟨hs.recordedByteIllegal, hs.resultOnlyWhenOk, hs.notOkIsRecorded⟩

theorem inv_applyReset (s : State) (rest : List Input) : Inv (s.applyReset rest) :=
  ⟨nofun, nofun, nofun⟩

/-- Raising a fault keeps the invariant when an illegal byte it names is illegal and r is not driven: `keepFirst` leaves
a record on file. -/
theorem inv_record_respond (hs : Inv s) {f : FaultRecord} {resp : Response}
    (hf : ∀ op, f = .illegalCommand op → ∀ d, decode ⟨op, d⟩ = none) (hr : resp.r = none) :
    Inv ((s.record f).respond resp) where
  recordedByteIllegal op hop := by
    obtain hold | ⟨-, hnew⟩ := keepFirst_eq_some hop
    · exact hs.recordedByteIllegal op hold
    · exact hf op hnew
  resultOnlyWhenOk r hresp _ := by
    obtain rfl : resp = r := by simpa using hresp
    exact hr
  notOkIsRecorded _ _ _ := keepFirst_ne_none s.fault f

/-- An OK response keeps the invariant when the record stays. -/
theorem inv_of_ok (hs : Inv s) (hf : t.fault = s.fault) {r : Option Word} (hr : t.response = some (okResponse r)) :
    Inv t where
  recordedByteIllegal op hop := hs.recordedByteIllegal op (hf ▸ hop)
  resultOnlyWhenOk resp hresp hno := by
    obtain rfl : okResponse r = resp := by simpa [hr] using hresp
    exact absurd rfl hno
  notOkIsRecorded resp hresp hno := by
    obtain rfl : okResponse r = resp := by simpa [hr] using hresp
    exact absurd rfl hno

theorem runCommand_keeps_inv {c : Command} (hs : Inv s) (h : runCommand c s = .next t) : Inv t := by
  obtain ⟨hd, rfl⟩ | ⟨g, rfl⟩ | ⟨hf, r, hr⟩ := runCommand_fault_response h
  · refine inv_record_respond hs (fun op hop d => ?_) rfl
    obtain rfl : c.op = op := by simpa using hop
    exact decode_eq_none_operands hd d
  · exact inv_record_respond hs nofun rfl
  · exact inv_of_ok hs hf hr

end Invariant

/-- Settles O49: a command keeps the invariant by what it does to the record and the response, and a reset leaves
neither. -/
theorem stepKeepsTheInvariant : Obligations.StepKeepsTheInvariant := by
  intro s t hs h
  obtain ⟨c, rest, -, hrun⟩ | ⟨rest, -, rfl⟩ := step_cases h
  · exact runCommand_keeps_inv (inv_awaiting hs rest) hrun
  · exact inv_applyReset s rest

/-- Settles O13: the fields of the reset state. -/
theorem resetHasTheStatedValues : Obligations.ResetHasTheStatedValues :=
  ⟨rfl, rfl, rfl, rfl⟩

end Sys2Proof.Machine

namespace Sys2Proof.Machine

/-! ## Reads and seeds are idempotent -/

/-- The five commands that read a generator's state out (R74, R75). -/
abbrev stateReads : List Instr := [.smRead, .xsRead0, .xsRead1, .xsRead2, .xsRead3]

theorem smEffect_idempotent {i : Instr} (h : isSeed i = true ∨ i ∈ stateReads) (x : Word) :
    smEffect i (smEffect i x).1 = smEffect i x := by
  cases i with
  | smNext | smNextDouble => simp [isSeed] at h
  | _ => rfl

theorem xsEffect_idempotent {i : Instr} (h : isSeed i = true ∨ i ∈ stateReads) (q : Quad) :
    xsEffect i (xsEffect i q).1 = xsEffect i q := by
  cases i with
  | xsNext | xsNextDouble | xsJump | xsLongJump => simp [isSeed] at h
  | _ => rfl

theorem keepFirst_keepFirst (old : Option FaultRecord) (f : FaultRecord) :
    keepFirst (keepFirst old f) f = keepFirst old f := by
  cases old <;> rfl

/-- A read or a seed repeated from the state it left changes nothing there: the record already holds a fault, or the
generator already holds the word written and its flag is set. -/
theorem exec_idempotent {i : Instr} {s t : State} (hi : isSeed i = true ∨ i ∈ stateReads) (h : exec i s = .next t) :
    exec i t = .next t := by
  obtain ⟨hseed, hw, rfl⟩ | ⟨hsm, -, rfl⟩ | ⟨hxs, -, rfl⟩ := exec_next_cases h
  · rw [exec_of_unseeded hseed (by cases hg : genOf i <;> simpa [hg, State.seeded] using hw), takeUnseeded_eq]
    simp [State.record, State.respond, keepFirst_keepFirst]
  · rw [exec_sm_of_executes hsm (.inr rfl), complete_seedSm]
    simp [smEffect_idempotent hi, State.putSm, State.markSm, State.respond]
  · rw [exec_xs_of_executes hxs (.inr rfl), complete_seedXs]
    simp [xsEffect_idempotent hi, State.putXs, State.markXs, State.respond]

/-- A read leaves both generators' words and flags (R17, R33). -/
theorem exec_keeps_generators_of_read {i : Instr} {s t : State} (hi : i ∈ stateReads) (h : exec i s = .next t) :
    t.smS = s.smS ∧ t.xsS = s.xsS ∧ t.smW = s.smW ∧ t.xsW = s.xsW := by
  have hne : ∀ j ∉ stateReads, i ≠ j := fun _ hj => ne_of_mem_of_not_mem hi hj
  obtain ⟨hsmS, hxsS, hsmW, hxsW, -⟩ := writesFollowTheTable i s t h
  exact ⟨hsmS (fun v => hne _ (by simp)) (hne _ (by simp)) (hne _ (by simp)),
    hxsS (fun a b c e => hne _ (by simp)) (hne _ (by simp)) (hne _ (by simp)) (hne _ (by simp)) (hne _ (by simp)),
    hsmW fun v => hne _ (by simp), hxsW fun a b c e => hne _ (by simp)⟩

/-- Settles O51: the repetition from the transfer functions, the frame of a read from R17's table. -/
theorem readsAndSeedsAreIdempotent : Obligations.ReadsAndSeedsAreIdempotent := by
  intro i s t hi h
  refine ⟨exec_idempotent hi h, fun hseed => exec_keeps_generators_of_read (hi.resolve_left ?_) h⟩
  simp [hseed]

/-! ## Transactions and runs of legal commands -/

/-- Settles O9: the port hands the command to the decoder, and a legal one goes on to `exec`. -/
theorem stepRunsTheDecodedInstruction : Obligations.StepRunsTheDecodedInstruction :=
  fun s _ rest _ hin hd => (step_of_command hin).trans (runCommand_of_decode hd (s.awaiting rest))

theorem exec_response {i : Instr} {s t : State} (h : exec i s = .next t) : ∃ r, t.response = some r := by
  obtain ⟨-, -, rfl⟩ | ⟨-, -, rfl⟩ | ⟨-, -, rfl⟩ := exec_next_cases h
  · exact ⟨_, rfl⟩
  · exact ⟨_, rfl⟩
  · exact ⟨_, rfl⟩

/-- A transaction of a legal command is its instruction's execution and the response that leaves. -/
theorem transact_of_exec {c : Command} {i : Instr} {s t : State} {r : Response} (hd : decode c = some i)
    (h : exec i s = .next t) (hr : t.response = some r) : transact c s = some (r, t) := by
  have hstep : step (s.offer c) = .next t :=
    (stepRunsTheDecodedInstruction (s.offer c) c s.inputs i rfl hd).trans h
  simp [transact, hstep, hr]

@[simp] theorem runCommands_nil (s : State) : runCommands [] s = some ([], s) := rfl

theorem runCommands_cons {c : Command} {cs : List Command} {s t u : State} {r : Response} {rs : List Response}
    (h : transact c s = some (r, t)) (hrest : runCommands cs t = some (rs, u)) :
    runCommands (c :: cs) s = some (r :: rs, u) := by
  simp [runCommands, h, hrest]

/-- A run that reaches its end has one response for each command. -/
theorem length_of_runCommands {cs : List Command} {s t : State} {rs : List Response}
    (h : runCommands cs s = some (rs, t)) : rs.length = cs.length := by
  induction cs generalizing s rs with
  | nil =>
    obtain ⟨rfl, -⟩ : [] = rs ∧ s = t := by simpa using h
    rfl
  | cons c cs ih =>
    cases hc : transact c s with
    | none => simp [runCommands, hc] at h
    | some p =>
      obtain ⟨rs', hrest, rfl⟩ : ∃ rs', runCommands cs p.2 = some (rs', t) ∧ p.1 :: rs' = rs := by
        simpa [runCommands, hc] using h
      simp [ih hrest]

/-! ## Two requesters, one to each generator -/

/-- `s` holds the SplitMix64 generator of `x` and the Xoshiro256+ generator of `y`. -/
structure Combines (x y s : State) : Prop where
  smS : s.smS = x.smS
  smW : s.smW = x.smW
  xsS : s.xsS = y.xsS
  xsW : s.xsW = y.xsW

section Interleaving

variable {x y s : State} {c : Command}

/-- A SplitMix64 command answers the combined state as it answers its own requester's, and leaves the other
generator. -/
theorem Combines.transact_sm (h : Combines x y s) (hc : smCommand c) :
    ∃ r x' s', transact c x = some (r, x') ∧ transact c s = some (r, s') ∧ Combines x' y s' := by
  obtain ⟨i, hd, hi⟩ := hc
  obtain ⟨x', hx⟩ := exec_answers_next i x
  obtain ⟨s', hs⟩ := exec_answers_next i s
  obtain ⟨r, hr⟩ := exec_response hx
  obtain ⟨hS, hW, hresp, hxsS, hxsW⟩ := exec_sm_agrees hi h.smS h.smW hs hx
  exact ⟨r, x', s', transact_of_exec hd hx hr, transact_of_exec hd hs (hresp.trans hr),
    hS, hW, hxsS.trans h.xsS, hxsW.trans h.xsW⟩

/-- A Xoshiro256+ command answers the combined state as it answers its own requester's, and leaves the other
generator. -/
theorem Combines.transact_xs (h : Combines x y s) (hc : xsCommand c) :
    ∃ r y' s', transact c y = some (r, y') ∧ transact c s = some (r, s') ∧ Combines x y' s' := by
  obtain ⟨i, hd, hi⟩ := hc
  obtain ⟨y', hy⟩ := exec_answers_next i y
  obtain ⟨s', hs⟩ := exec_answers_next i s
  obtain ⟨r, hr⟩ := exec_response hy
  obtain ⟨hS, hW, hresp, hsmS, hsmW⟩ := exec_xs_agrees hi h.xsS h.xsW hs hy
  exact ⟨r, y', s', transact_of_exec hd hy hr, transact_of_exec hd hs (hresp.trans hr),
    hsmS.trans h.smS, hsmW.trans h.smW, hS, hW⟩

/-- Induction on the interleaving, with the requesters' own runs from states of their own: each command steps one of
these and the combined state together. -/
theorem Combines.runCommands_interleaved {xs ys zs : List Command} (hzs : Interleaves xs ys zs)
    (hxs : ∀ c ∈ xs, smCommand c) (hys : ∀ c ∈ ys, xsCommand c) (h : Combines x y s) :
    ∃ rx x' ry y' rz s', runCommands xs x = some (rx, x') ∧ runCommands ys y = some (ry, y') ∧
      runCommands zs s = some (rz, s') ∧ Interleaves (xs.zip rx) (ys.zip ry) (zs.zip rz) ∧ Combines x' y' s' := by
  induction hzs generalizing x y s with
  | nil => exact ⟨[], x, [], y, [], s, rfl, rfl, rfl, .nil, h⟩
  | left c _ ih =>
    obtain ⟨hc, hxs⟩ := List.forall_mem_cons.1 hxs
    obtain ⟨r, x₁, s₁, hx₁, hs₁, h₁⟩ := h.transact_sm hc
    obtain ⟨rx, x', ry, y', rz, s', hx, hy, hs, hzip, h'⟩ := ih hxs hys h₁
    exact ⟨r :: rx, x', ry, y', r :: rz, s', runCommands_cons hx₁ hx, hy, runCommands_cons hs₁ hs,
      .left (c, r) hzip, h'⟩
  | right c _ ih =>
    obtain ⟨hc, hys⟩ := List.forall_mem_cons.1 hys
    obtain ⟨r, y₁, s₁, hy₁, hs₁, h₁⟩ := h.transact_xs hc
    obtain ⟨rx, x', ry, y', rz, s', hx, hy, hs, hzip, h'⟩ := ih hxs hys h₁
    exact ⟨rx, x', r :: ry, y', r :: rz, s', hx, runCommands_cons hy₁ hy, runCommands_cons hs₁ hs,
      .right (c, r) hzip, h'⟩

end Interleaving

/-- Settles O57: a state combines itself with itself. -/
theorem interleavingsOfSeparateGeneratorsAgree : Obligations.InterleavingsOfSeparateGeneratorsAgree := by
  intro s xs ys zs hxs hys hzs
  have hs : Combines s s s := ⟨rfl, rfl, rfl, rfl⟩
  obtain ⟨rx, tx, ry, ty, rz, tz, hx, hy, hz, hzip, ht⟩ := hs.runCommands_interleaved hzs hxs hys
  exact ⟨rx, tx, ry, ty, rz, tz, hx, hy, hz, length_of_runCommands hx, length_of_runCommands hy,
    length_of_runCommands hz, hzip, ht.smS, ht.smW, ht.xsS, ht.xsW⟩

end Sys2Proof.Machine

namespace Sys2Proof.Machine

/-! ## The decoder inverts the encoder

`withOperands` says what the operand words are to an instruction; with it the decoder is one equation and one
equivalence, and the statements about R39, R42, R44, R48 and R49 follow from these two. -/

/-- The instruction of `i`'s row that takes its operands from `d`: SM_SEED takes d[0], XS_SEED all four words, and no
other command takes any (R39). -/
def withOperands (i : Instr) (d : Quad) : Instr :=
  match i with
  | .smSeed _ => .smSeed d.w0
  | .xsSeed _ _ _ _ => .xsSeed d.w0 d.w1 d.w2 d.w3
  | i => i

theorem withOperands_encodeOperands (i : Instr) : withOperands i (encodeOperands i) = i := by
  cases i <;> rfl

/-- Only the bytes 0x01 and 0x11 read an operand word. -/
theorem withOperands_of_not_seed {i : Instr} (hsm : encodeOp i ≠ 0x01) (hxs : encodeOp i ≠ 0x11) (d : Quad) :
    withOperands i d = i := by
  cases i with
  | smSeed v => exact absurd rfl hsm
  | xsSeed a b c e => exact absurd rfl hxs
  | _ => rfl

/-- The byte of a row decodes to that row's instruction, its operands read from the command (R42, R43). -/
theorem decode_encodeOp (i : Instr) (d : Quad) : decode ⟨encodeOp i, d⟩ = some (withOperands i d) := by
  cases i with
  | smSeed v => exact decode_smSeed d
  | xsSeed a b c e => exact decode_xsSeed d
  | _ => simp [encodeOp, withOperands, decode, decodeSm, decodeXs, xsReadOf, opF, opG, opW]

theorem decode_encode (i : Instr) : decode (encode i) = some i := by
  rw [encode, decode_encodeOp, withOperands_encodeOperands]

theorem decode_isSome_iff {c : Command} : (decode c).isSome = true ↔ ∃ i, c.op = encodeOp i := by
  constructor
  · intro h
    obtain ⟨i, hi⟩ := Option.isSome_iff_exists.1 h
    exact ⟨i, op_of_decode hi⟩
  · rintro ⟨i, hi⟩
    have hd : decode c = some (withOperands i c.d) := by simpa [← hi] using decode_encodeOp i c.d
    simp [hd]

theorem decode_eq_none_iff {c : Command} : decode c = none ↔ ∀ i, encodeOp i ≠ c.op := by
  rw [← Option.not_isSome_iff_eq_none, decode_isSome_iff, not_exists]
  exact forall_congr' fun i => not_congr eq_comm

/-- XS_READ w is the byte 0x14 | (w << 5) (R49). -/
theorem encodeOp_xsReadOf (w : Fin 4) : encodeOp (xsReadOf w) = 0x14 ||| (BitVec.ofNat 8 w <<< 5) :=
  match w with
  | 0 | 1 | 2 | 3 => rfl

/-- Settles O5: a byte that decodes is its row's byte, so the operands the encoder passes through come back. -/
theorem decodeAndEncodeAgree : Obligations.DecodeAndEncodeAgree := by
  refine ⟨decode_encode, fun c i h => ?_, fun c h => decode_eq_none_iff.1 h, encodeOp_xsReadOf⟩
  have hop : c.op = (encode i).op := op_of_decode h
  exact ⟨hop.symm, by rw [hop]; exact decode_encode i⟩

/-! ## Operand words a command does not read -/

theorem decode_operands_of_not_seed {op : Byte} (hsm : op ≠ 0x01) (hxs : op ≠ 0x11) (d d' : Quad) :
    decode ⟨op, d⟩ = decode ⟨op, d'⟩ := by
  cases hd : decode ⟨op, d⟩ with
  | none => exact (decode_eq_none_operands hd d').symm
  | some i =>
    obtain rfl : op = encodeOp i := op_of_decode hd
    rw [← hd, decode_encodeOp, decode_encodeOp, withOperands_of_not_seed hsm hxs, withOperands_of_not_seed hsm hxs]

/-- The port reads a command through the decoder, and past that only its byte. -/
theorem runCommand_congr {op : Byte} {d d' : Quad} (h : decode ⟨op, d⟩ = decode ⟨op, d'⟩) (s : State) :
    runCommand ⟨op, d⟩ s = runCommand ⟨op, d'⟩ s := by
  simp [runCommand, h]

theorem step_offer (c : Command) (s : State) : step (s.offer c) = runCommand c s :=
  step_of_command rfl

theorem exec_smSeed (v : Word) (s : State) :
    exec (.smSeed v) s = .next ((s.putSm v).markSm.respond (okResponse none)) := rfl

theorem exec_xsSeed (a b c e : Word) (s : State) :
    exec (.xsSeed a b c e) s = .next ((s.putXs ⟨a, b, c, e⟩).markXs.respond (okResponse none)) := rfl

/-- Settles O4: commands that decode alike step alike, and a seed's operands reach its state word for word. -/
theorem unreadOperandsNeverMatter : Obligations.UnreadOperandsNeverMatter := by
  intro s d d'
  simp only [step_offer]
  refine ⟨fun op hsm hxs => runCommand_congr (decode_operands_of_not_seed hsm hxs d d') s, fun h => ?_, ?_, ?_⟩
  · exact runCommand_congr (by rw [decode_smSeed, decode_smSeed, h]) s
  · exact ⟨_, runCommand_of_decode (decode_smSeed d) s, rfl⟩
  · exact ⟨_, runCommand_of_decode (decode_xsSeed d) s, rfl⟩

/-! ## The opcode map, the field checks and the illegal bytes -/

/-- An instruction of each row of R42. -/
def opcodeRows : List Instr :=
  [.smSeed 0, .smNext, .smNextDouble, .smRead, .xsSeed 0 0 0 0, .xsNext, .xsNextDouble, .xsRead0, .xsRead1, .xsRead2,
   .xsRead3, .xsJump, .xsLongJump]

theorem mem_map_encodeOp_opcodeRows {op : Byte} : op ∈ opcodeRows.map encodeOp ↔ ∃ i, op = encodeOp i := by
  constructor
  · intro h
    obtain ⟨i, -, hi⟩ := List.mem_map.1 h
    exact ⟨i, hi.symm⟩
  · rintro ⟨i, rfl⟩
    cases i <;> simp [opcodeRows, encodeOp]

/-- Settles O1: the rows' bytes decode row by row, and a byte that decodes is the byte of a row. -/
theorem opcodeMapIsTheTable : Obligations.OpcodeMapIsTheTable := fun d =>
  ⟨decode_smSeed d, decode_encodeOp .smNext d, decode_encodeOp .smNextDouble d, decode_encodeOp .smRead d,
    decode_xsSeed d, decode_encodeOp .xsNext d, decode_encodeOp .xsNextDouble d, decode_encodeOp .xsRead0 d,
    decode_encodeOp .xsRead1 d, decode_encodeOp .xsRead2 d, decode_encodeOp .xsRead3 d, decode_encodeOp .xsJump d,
    decode_encodeOp .xsLongJump d, fun _ => decode_isSome_iff.trans mem_map_encodeOp_opcodeRows.symm⟩

theorem opF_eq_mod (op : Byte) : opF op = op.toNat % 16 := by
  simp [opF]

theorem opW_eq_div_mod (op : Byte) : opW op = op.toNat / 32 % 4 := by
  simp [opW, Nat.shiftRight_eq_div_pow]

theorem getLsbD_eq_div_mod (op : Byte) (k : Nat) : op.getLsbD k = decide (op.toNat / 2 ^ k % 2 = 1) := by
  simp [BitVec.getLsbD, Nat.testBit_eq_decide_div_mod_eq]

theorem decodeSm_isSome_iff (f : Nat) (d : Quad) : (decodeSm f d).isSome = true ↔ 1 ≤ f ∧ f ≤ 4 := by
  match f with
  | 0 | 1 | 2 | 3 | 4 => simp [decodeSm]
  | f + 5 => simp [decodeSm]

theorem decodeXs_isSome_iff (f w : Nat) (d : Quad) :
    (decodeXs f w d).isSome = true ↔ (1 ≤ f ∧ f ≤ 6) ∧ (w = 0 ∨ f = 4) := by
  match f with
  | 0 | 1 | 2 | 3 | 4 | 5 | 6 => simp [decodeXs]
  | f + 7 => simp [decodeXs]

/-- The field checks of R38 on the byte as a number. -/
theorem wellFormed_iff_toNat (c : Command) : c.wellFormed = true ↔
    c.op.toNat < 128 ∧ (1 ≤ c.op.toNat % 16 ∧ c.op.toNat % 16 ≤ if c.op.toNat / 16 % 2 = 0 then 4 else 6) ∧
      (c.op.toNat / 32 % 4 = 0 ∨ (c.op.toNat / 16 % 2 ≠ 0 ∧ c.op.toNat % 16 = 4)) := by
  have hread : c.op.toNat % 32 = 20 ↔ c.op.toNat / 16 % 2 ≠ 0 ∧ c.op.toNat % 16 = 4 := by omega
  rw [← hread]
  simp [Command.wellFormed, Command.reservedClear, Command.functionLegal, Command.wordIndexLegal, and_assoc]

/-- The field checks of R38 on the fields the decoder reads. -/
theorem wellFormed_iff_fields (c : Command) : c.wellFormed = true ↔
    c.op.getLsbD 7 = false ∧ (1 ≤ opF c.op ∧ opF c.op ≤ if opG c.op then 6 else 4) ∧
      (opW c.op = 0 ∨ (opG c.op = true ∧ opF c.op = 4)) := by
  have hlt : c.op.toNat < 2 ^ 8 := c.op.isLt
  simp only [wellFormed_iff_toNat, opG, opF_eq_mod, opW_eq_div_mod, getLsbD_eq_div_mod, decide_eq_true_eq,
    decide_eq_false_iff_not]
  split <;> split <;> omega

/-- Settles O2: each half of the decoder takes exactly the functions of its generator, and a word index in XS_READ
alone. -/
theorem legalExactlyWhenFieldsPass : Obligations.LegalExactlyWhenFieldsPass := by
  intro c
  rw [Bool.eq_iff_iff, wellFormed_iff_fields, decode]
  cases h7 : c.op.getLsbD 7 with
  | true => simp
  | false =>
    cases hG : opG c.op with
    | true => simp [decodeXs_isSome_iff]
    | false =>
      by_cases hW : opW c.op = 0
      · simp [hW, decodeSm_isSome_iff]
      · simp [hW]

theorem decode_eq_none_iff_not_wellFormed {c : Command} : decode c = none ↔ ¬ c.wellFormed = true := by
  rw [← Option.not_isSome_iff_eq_none, legalExactlyWhenFieldsPass c]

theorem mem_byteSpan {lo hi b : Nat} : b ∈ byteSpan lo hi ↔ lo ≤ b ∧ b ≤ hi := by
  rw [byteSpan, List.mem_range'_1]
  omega

theorem nodup_byteSpan (lo hi : Nat) : (byteSpan lo hi).Nodup :=
  List.nodup_range'

theorem byteSpan_self (b : Nat) : byteSpan b b = [b] := by
  simp [byteSpan]

/-! Each group of R44 is one way to fail the checks of R38, read on the byte as a number. -/

theorem mem_illegalGroup_zero {b : Nat} : b ∈ illegalGroup 0 ↔ 128 ≤ b ∧ b < 256 := by
  simp only [illegalGroup, mem_byteSpan]
  omega

/-- G = 0 and W = 00, but no function of SplitMix64. -/
theorem mem_illegalGroup_one {b : Nat} :
    b ∈ illegalGroup 1 ↔ b < 128 ∧ b / 16 % 2 = 0 ∧ b / 32 % 4 = 0 ∧ ¬ (1 ≤ b % 16 ∧ b % 16 ≤ 4) := by
  simp only [illegalGroup, List.mem_append, List.mem_singleton, mem_byteSpan]
  omega

/-- G = 0 and W ≠ 00. -/
theorem mem_illegalGroup_two {b : Nat} : b ∈ illegalGroup 2 ↔ b < 128 ∧ b / 16 % 2 = 0 ∧ b / 32 % 4 ≠ 0 := by
  simp only [illegalGroup, List.mem_append, mem_byteSpan]
  omega

/-- G = 1, but no function of Xoshiro256+. -/
theorem mem_illegalGroup_three {b : Nat} :
    b ∈ illegalGroup 3 ↔ b < 128 ∧ b / 16 % 2 ≠ 0 ∧ ¬ (1 ≤ b % 16 ∧ b % 16 ≤ 6) := by
  simp only [illegalGroup, List.mem_append, List.mem_singleton, mem_byteSpan]
  omega

/-- G = 1 and a function of Xoshiro256+ other than XS_READ, but W ≠ 00. -/
theorem mem_illegalGroup_four {b : Nat} :
    b ∈ illegalGroup 4 ↔
      b < 128 ∧ b / 16 % 2 ≠ 0 ∧ (1 ≤ b % 16 ∧ b % 16 ≤ 6) ∧ b % 16 ≠ 4 ∧ b / 32 % 4 ≠ 0 := by
  simp only [illegalGroup, List.mem_append, List.mem_cons, List.not_mem_nil, or_false, mem_byteSpan]
  omega

theorem exists_mem_illegalGroup_iff {b : Nat} (hb : b < 256) (d : Quad) :
    (∃ k, b ∈ illegalGroup k) ↔ ¬ (⟨BitVec.ofNat 8 b, d⟩ : Command).wellFormed = true := by
  have hop : (BitVec.ofNat 8 b).toNat = b := Nat.mod_eq_of_lt hb
  have hgroups : (∃ k, b ∈ illegalGroup k) ↔ b ∈ illegalGroup 0 ∨ b ∈ illegalGroup 1 ∨ b ∈ illegalGroup 2 ∨
      b ∈ illegalGroup 3 ∨ b ∈ illegalGroup 4 := by simp [Fin.exists_fin_succ]
  rw [hgroups, wellFormed_iff_toNat, hop, mem_illegalGroup_zero, mem_illegalGroup_one, mem_illegalGroup_two,
    mem_illegalGroup_three, mem_illegalGroup_four]
  by_cases hg : b / 16 % 2 = 0
  · by_cases hw : b / 32 % 4 = 0 <;> simp [hg, hw] <;> omega
  · by_cases hw : b / 32 % 4 = 0 <;> simp [hg, hw] <;> omega

/-- The runs of consecutive bytes that make up the five groups, in the order of R44. -/
def illegalSpans : List (Nat × Nat) :=
  [(0x80, 0xFF), (0x00, 0x00), (0x05, 0x0F), (0x20, 0x2F), (0x40, 0x4F), (0x60, 0x6F),
   (0x10, 0x10), (0x17, 0x1F), (0x30, 0x30), (0x37, 0x3F), (0x50, 0x50), (0x57, 0x5F), (0x70, 0x70), (0x77, 0x7F),
   (0x31, 0x33), (0x35, 0x35), (0x36, 0x36), (0x51, 0x53), (0x55, 0x55), (0x56, 0x56), (0x71, 0x73),
   (0x75, 0x75), (0x76, 0x76)]

theorem illegalGroups_eq_spans :
    illegalGroup 0 ++ illegalGroup 1 ++ illegalGroup 2 ++ illegalGroup 3 ++ illegalGroup 4
      = illegalSpans.flatMap fun p => byteSpan p.1 p.2 := by
  simp [illegalGroup, illegalSpans, byteSpan_self]

theorem illegalSpans_separated : illegalSpans.Pairwise fun p q => p.2 < q.1 ∨ q.2 < p.1 := by
  decide

/-- No byte is listed twice: each span increases, and any two lie apart. -/
theorem nodup_illegalGroups :
    (illegalGroup 0 ++ illegalGroup 1 ++ illegalGroup 2 ++ illegalGroup 3 ++ illegalGroup 4).Nodup := by
  rw [illegalGroups_eq_spans, List.nodup_flatMap]
  refine ⟨fun p _ => nodup_byteSpan p.1 p.2, illegalSpans_separated.imp fun {p q} h b hp hq => ?_⟩
  obtain ⟨hplo, hphi⟩ := mem_byteSpan.1 hp
  obtain ⟨hqlo, hqhi⟩ := mem_byteSpan.1 hq
  omega

/-- Settles O3: a byte that fails a field check is in a group, the spans lie apart, and the sizes are counted. -/
theorem illegalBytesAreTheFiveGroups : Obligations.IllegalBytesAreTheFiveGroups :=
  ⟨fun _ d hb => decode_eq_none_iff_not_wellFormed.trans (exists_mem_illegalGroup_iff hb d).symm,
    rfl, rfl, rfl, rfl, rfl, nodup_illegalGroups, rfl⟩

/-- Settles O6: the lines by evaluation of the encoder, and the two illegal bytes fail the field checks, 0x05 in its
function and 0x35 in its word index. -/
theorem encodingExamplesHold : Obligations.EncodingExamplesHold := by
  refine ⟨rfl, rfl, rfl, rfl, rfl, rfl, rfl, rfl, fun d => ⟨?_, ?_⟩⟩
  · simp [decode_eq_none_iff_not_wellFormed, wellFormed_iff_toNat]
  · simp [decode_eq_none_iff_not_wellFormed, wellFormed_iff_toNat]

/-- Settles O7: the decoder evaluated on the five table words. -/
theorem tableWordsDecodeToTheirRows : Obligations.TableWordsDecodeToTheirRows := by
  unfold Obligations.TableWordsDecodeToTheirRows
  decide

end Sys2Proof.Machine

namespace Sys2Proof.Machine

/-! ## Command lists run to their end -/

theorem runCommand_answers (c : Command) (s : State) :
    ∃ r t, runCommand c s = .next t ∧ t.response = some r ∧ t.inputs = s.inputs := by
  cases hd : decode c with
  | none => exact ⟨_, _, runCommand_of_illegal hd s, rfl, rfl⟩
  | some i =>
    obtain ⟨t, ht⟩ := exec_answers_next i s
    obtain ⟨r, hr⟩ := exec_response ht
    exact ⟨r, t, (runCommand_of_decode hd s).trans ht, hr, exec_inputs ht⟩

theorem transact_answers (c : Command) (s : State) : ∃ r t, transact c s = some (r, t) ∧ t.inputs = s.inputs := by
  obtain ⟨r, t, ht, hr, hin⟩ := runCommand_answers c s
  have hstep : step (s.offer c) = .next t := (step_offer c s).trans ht
  exact ⟨r, t, by simp [transact, hstep, hr], hin⟩

/-- Settles O53, by induction on the list: each transaction is answered, whatever the command and the state. -/
theorem everyCommandListEndsWithAResponseEach : Obligations.EveryCommandListEndsWithAResponseEach := by
  intro cs
  induction cs with
  | nil => exact fun s => ⟨[], s, rfl, rfl, rfl⟩
  | cons c cs ih =>
    intro s
    obtain ⟨r, t, hc, hin⟩ := transact_answers c s
    obtain ⟨rs, u, hcs, hlen, hinputs⟩ := ih t
    exact ⟨r :: rs, u, runCommands_cons hc hcs, congrArg Nat.succ hlen, hinputs.trans hin⟩

/-! ## The assembler -/

@[simp] theorem operandWords_nil (names : HostNames) : operandWords names [] = some [] := rfl

theorem operandWords_cons {names : HostNames} {o : AsmOperand} {os : List AsmOperand} {v : Word} {vs : List Word}
    (ho : operandWord names o = some v) (hos : operandWords names os = some vs) :
    operandWords names (o :: os) = some (v :: vs) := by
  simp [operandWords, ho, hos]

theorem operandWords_eq_none_of_mem {names : HostNames} {o : AsmOperand} {os : List AsmOperand} (hmem : o ∈ os)
    (ho : operandWord names o = none) : operandWords names os = none := by
  induction hmem with
  | head os => simp [operandWords, ho]
  | tail p _ ih => simp [operandWords, ih]

theorem length_of_operandWords {names : HostNames} {os : List AsmOperand} {vs : List Word}
    (h : operandWords names os = some vs) : vs.length = os.length := by
  induction os generalizing vs with
  | nil =>
    obtain rfl : [] = vs := by simpa using h
    rfl
  | cons o os ih =>
    unfold operandWords at h
    split at h
    next v ws _ hws =>
      obtain rfl : v :: ws = vs := by simpa using h
      simp [ih hws]
    · cases h

theorem operandWord_num {n : Nat} (h : n < 2 ^ 64) (names : HostNames) :
    operandWord names (.num n) = some (BitVec.ofNat 64 n) :=
  if_pos h

theorem operandWord_num_eq_none {n : Nat} (h : 2 ^ 64 ≤ n) (names : HostNames) : operandWord names (.num n) = none :=
  if_neg h.not_gt

theorem assemble_eq_none_of_operandWords {names : HostNames} {l : Line} (h : operandWords names l.operands = none) :
    assemble names l = none := by
  simp [assemble, h]

theorem assemble_of_operandWords {names : HostNames} {m : Mnemonic} {os : List AsmOperand} {vs : List Word}
    (h : operandWords names os = some vs) : assemble names ⟨none, m, os⟩ = assembleWords m vs := by
  simp [assemble, h]

/-- A name for the result changes nothing where the command has a result. -/
theorem assemble_bind {m : Mnemonic} (hm : drivesResult m = true) (names : HostNames) (x : String)
    (os : List AsmOperand) : assemble names ⟨some x, m, os⟩ = assemble names ⟨none, m, os⟩ := by
  simp [assemble, hm]

theorem assemble_smSeed {names : HostNames} {o : AsmOperand} {v : Word} (h : operandWord names o = some v) :
    assemble names ⟨none, .smSeed, [o]⟩ = some (.smSeed v) :=
  (assemble_of_operandWords (operandWords_cons h rfl)).trans rfl

theorem assemble_xsSeed {names : HostNames} {oa ob oc oe : AsmOperand} {a b c e : Word}
    (ha : operandWord names oa = some a) (hb : operandWord names ob = some b) (hc : operandWord names oc = some c)
    (he : operandWord names oe = some e) :
    assemble names ⟨none, .xsSeed, [oa, ob, oc, oe]⟩ = some (.xsSeed a b c e) :=
  (assemble_of_operandWords
    (operandWords_cons ha (operandWords_cons hb (operandWords_cons hc (operandWords_cons he rfl))))).trans rfl

theorem assemble_xsRead (names : HostNames) (n : Nat) :
    assemble names ⟨none, .xsRead, [.num n]⟩ = if n < 4 then some (xsReadOf n) else none := by
  by_cases hn : n < 2 ^ 64
  · have htoNat : (BitVec.ofNat 64 n).toNat = n := Nat.mod_eq_of_lt hn
    rw [assemble_of_operandWords (operandWords_cons (operandWord_num hn names) rfl), assembleWords, assembleXsRead,
      htoNat]
  · rw [not_lt] at hn
    have hwide : operandWords names [.num n] = none :=
      operandWords_eq_none_of_mem List.mem_cons_self (operandWord_num_eq_none hn names)
    rw [assemble_eq_none_of_operandWords hwide, if_neg (by omega)]

/-- The number of operands a command takes (R46). -/
def operandCount (m : Mnemonic) : Nat :=
  match m with
  | .smSeed | .xsRead => 1
  | .xsSeed => 4
  | .smNext | .smNextDouble | .smRead | .xsNext | .xsNextDouble | .xsJump | .xsLongJump => 0

theorem assembleWords_eq_none_of_length {m : Mnemonic} {vs : List Word} (h : vs.length ≠ operandCount m) :
    assembleWords m vs = none := by
  cases m with
  | smSeed | xsSeed | xsRead =>
    simp only [assembleWords, assembleSmSeed, assembleXsSeed, assembleXsRead]
    split
    · exact absurd rfl h
    · rfl
  | _ =>
    cases vs with
    | nil => exact absurd rfl h
    | cons v vs => rfl

theorem assemble_eq_none_of_length {names : HostNames} {l : Line} (h : l.operands.length ≠ operandCount l.cmd) :
    assemble names l = none := by
  cases hw : operandWords names l.operands with
  | none => exact assemble_eq_none_of_operandWords hw
  | some vs =>
    rw [← length_of_operandWords hw] at h
    simp [assemble, hw, assembleWords_eq_none_of_length h]

/-- Settles O8: what an operand stands for, what each command makes of its operand words, and the three refusals. -/
theorem assemblerFollowsTheSyntax : Obligations.AssemblerFollowsTheSyntax := by
  refine ⟨fun _ _ => rfl, fun _ _ => rfl, fun _ _ _ => assemble_smSeed, fun _ _ _ _ _ _ _ _ _ => assemble_xsSeed,
    fun names n => ?_, fun _ => ⟨rfl, rfl, rfl, rfl, rfl, rfl, rfl⟩,
    fun names ⟨x, m, os⟩ h => assemble_eq_none_of_length ?_,
    fun names l n hmem hn =>
      assemble_eq_none_of_operandWords (operandWords_eq_none_of_mem hmem (operandWord_num_eq_none hn names)),
    fun names l x hmem hx => assemble_eq_none_of_operandWords (operandWords_eq_none_of_mem hmem hx),
    fun names x m os hm => assemble_bind ?_ names x os⟩
  · rw [assemble_xsRead]
    split
    next hn => exact congrArg some (encodeOp_xsReadOf ⟨n, hn⟩)
    · rfl
  · cases m <;> exact h
  · cases m with
    | smSeed | xsSeed | xsJump | xsLongJump => simp at hm
    | _ => rfl

end Sys2Proof.Machine

namespace Sys2Proof.Machine

/-! ## SplitMix64 outputs within one period are distinct (R55)

The constants of R7 are odd, so units modulo 2^64, and a word is determined by its XOR with its own right shift. -/

theorem isUnit_smGamma : IsUnit Config.smGamma := IsUnit.of_mul_eq_one 0xF1DE83E19937733D (by decide)

theorem isUnit_smMul1 : IsUnit Config.smMul1 := IsUnit.of_mul_eq_one 0x96DE1B173F119089 (by decide)

theorem isUnit_smMul2 : IsUnit Config.smMul2 := IsUnit.of_mul_eq_one 0x319642B2D24D8EC3 (by decide)

theorem eq_zero_of_xor_ushiftRight_eq_zero {k : Nat} (hk : k ≠ 0) {x : Word} (h : x ^^^ (x >>> k) = 0) : x = 0 := by
  have hx : x = x >>> k := BitVec.xor_eq_zero_iff.1 h
  have hdiv : x.toNat = x.toNat / 2 ^ k := by
    rw [← Nat.shiftRight_eq_div_pow, ← BitVec.toNat_ushiftRight, ← hx]
  by_contra hne
  have hpos : 0 < x.toNat := Nat.pos_of_ne_zero fun h0 => hne (BitVec.eq_of_toNat_eq h0)
  exact absurd hdiv (Nat.div_lt_self hpos (Nat.one_lt_two_pow hk)).ne'

theorem xor_ushiftRight_injective {k : Nat} (hk : k ≠ 0) : Function.Injective fun x : Word => x ^^^ (x >>> k) := by
  intro x y h
  refine BitVec.xor_eq_zero_iff.1 (eq_zero_of_xor_ushiftRight_eq_zero hk ?_)
  calc x ^^^ y ^^^ ((x ^^^ y) >>> k)
      = (x ^^^ (x >>> k)) ^^^ (y ^^^ (y >>> k)) := by rw [BitVec.ushiftRight_xor_distrib]; ac_rfl
    _ = 0 := BitVec.xor_eq_zero_iff.2 h

theorem smMix_injective : Function.Injective smMix :=
  (xor_ushiftRight_injective (k := Config.smSh3) (by decide)).comp
    (isUnit_smMul2.mul_right_injective.comp
      ((xor_ushiftRight_injective (k := Config.smSh2) (by decide)).comp
        (isUnit_smMul1.mul_right_injective.comp (xor_ushiftRight_injective (k := Config.smSh1) (by decide)))))

theorem smSteps_succ (n : Nat) (x : Word) : smSteps (n + 1) x = (smStep (smSteps n x)).1 :=
  Function.iterate_succ_apply' smAdvance n x

/-- n steps add n times the increment (R55 (a)). -/
theorem smSteps_eq_add (n : Nat) (x : Word) : smSteps n x = BitVec.ofNat 64 n * Config.smGamma + x := by
  induction n with
  | zero => simp [smSteps]
  | succ n ih =>
    have hsucc : BitVec.ofNat 64 (n + 1) = BitVec.ofNat 64 n + 1 := BitVec.ofNat_add n 1
    calc smSteps (n + 1) x
        = Config.smGamma + smSteps n x := smSteps_succ n x
      _ = BitVec.ofNat 64 (n + 1) * Config.smGamma + x := by rw [ih, hsucc]; ring

theorem smSteps_inj {i j : Nat} (hi : i < 2 ^ 64) (hj : j < 2 ^ 64) {x : Word} (h : smSteps i x = smSteps j x) :
    i = j := by
  rw [smSteps_eq_add, smSteps_eq_add] at h
  have hofNat : BitVec.ofNat 64 i = BitVec.ofNat 64 j := isUnit_smGamma.mul_left_injective (add_right_cancel h)
  have htoNat := congrArg BitVec.toNat hofNat
  rwa [BitVec.toNat_ofNat, BitVec.toNat_ofNat, Nat.mod_eq_of_lt hi, Nat.mod_eq_of_lt hj] at htoNat

theorem smStep_snd_injective : Function.Injective fun x => (smStep x).2 :=
  smMix_injective.comp (add_right_injective Config.smGamma)

/-- Outputs fewer than a period apart differ (R55 (c)). -/
theorem smOutput_inj {i j : Nat} (hi : i < 2 ^ 64) (hj : j < 2 ^ 64) {x : Word}
    (h : (smStep (smSteps i x)).2 = (smStep (smSteps j x)).2) : i = j :=
  smSteps_inj hi hj (smStep_snd_injective h)

/-- The four outputs that XS_SEED_FROM_SM v reads (R47 (a)). -/
def fourOutputs (v : Word) : Quad :=
  ⟨(smStep v).2, (smStep (smSteps 1 v)).2, (smStep (smSteps 2 v)).2, (smStep (smSteps 3 v)).2⟩

theorem nodup_fourOutputs (v : Word) :
    [(fourOutputs v).w0, (fourOutputs v).w1, (fourOutputs v).w2, (fourOutputs v).w3].Nodup := by
  have hmap : ((List.range 4).map fun n => (smStep (smSteps n v)).2).Nodup :=
    List.nodup_range.map_on fun i hi j hj h =>
      smOutput_inj ((List.mem_range.1 hi).trans (by decide)) ((List.mem_range.1 hj).trans (by decide)) h
  exact hmap

theorem fourOutputs_ne_zero (v : Word) : fourOutputs v ≠ Quad.zero := by
  intro h
  have hnodup := nodup_fourOutputs v
  rw [h] at hnodup
  exact absurd hnodup (by decide)

/-! ## Runs of command lines -/

/-- The lines run to their end from `s` and the names bound before, and leave `t` and the names `names'`. -/
def RunsTo (ls : List Line) (names : HostNames) (s : State) (names' : HostNames) (t : State) : Prop :=
  ∃ rs, runLines ls names s = some (names', rs, t)

theorem RunsTo.nil (names : HostNames) (s : State) : RunsTo [] names s names s :=
  ⟨[], rfl⟩

/-- One line: it assembles, its instruction executes, and its name, if any, is bound to the result. -/
theorem RunsTo.cons {l : Line} {ls : List Line} {names names₁ names' : HostNames} {s s₁ t : State} {i : Instr}
    {r : Response} (hi : assemble names l = some i) (hs : exec i s = .next s₁) (hr : s₁.response = some r)
    (hbind : bindResult l.bind r.r names = some names₁) (hls : RunsTo ls names₁ s₁ names' t) :
    RunsTo (l :: ls) names s names' t := by
  obtain ⟨rs, hls⟩ := hls
  exact ⟨r :: rs, by simp [runLines, hi, transact_of_exec (decode_encode i) hs hr, hbind, hls]⟩

section Lines

variable {ls : List Line} {names names' : HostNames} {s t : State}

theorem RunsTo.smSeed {o : AsmOperand} {v : Word} (ho : operandWord names o = some v)
    (hls : RunsTo ls names ((s.putSm v).markSm.respond (okResponse none)) names' t) :
    RunsTo (⟨none, .smSeed, [o]⟩ :: ls) names s names' t :=
  .cons (assemble_smSeed ho) (exec_smSeed v s) rfl rfl hls

theorem RunsTo.xsSeed {oa ob oc oe : AsmOperand} {a b c e : Word} (ha : operandWord names oa = some a)
    (hb : operandWord names ob = some b) (hc : operandWord names oc = some c) (he : operandWord names oe = some e)
    (hls : RunsTo ls names ((s.putXs ⟨a, b, c, e⟩).markXs.respond (okResponse none)) names' t) :
    RunsTo (⟨none, .xsSeed, [oa, ob, oc, oe]⟩ :: ls) names s names' t :=
  .cons (assemble_xsSeed ha hb hc he) (exec_xsSeed a b c e s) rfl rfl hls

theorem exec_smNext_of_seeded (hw : s.smW = true) :
    exec .smNext s = .next ((s.putSm (smStep s.smS).1).respond (okResponse (some (smStep s.smS).2))) := by
  rw [exec_sm_of_executes rfl (.inr hw), State.markSm_putSm_of_seeded _ hw]
  rfl

theorem RunsTo.smNext {n : Nat} {v : Word} (hw : s.smW = true) (hS : s.smS = smSteps n v) (x : String)
    (hls : RunsTo ls ((x, (smStep (smSteps n v)).2) :: names)
      ((s.putSm (smSteps (n + 1) v)).respond (okResponse (some (smStep (smSteps n v)).2))) names' t) :
    RunsTo (⟨some x, .smNext, []⟩ :: ls) names s names' t := by
  rw [smSteps_succ, ← hS] at hls
  exact .cons rfl (exec_smNext_of_seeded hw) rfl rfl hls

theorem exec_xsReadOf_of_seeded (hw : s.xsW = true) (w : Fin 4) :
    exec (xsReadOf w) s = .next (s.respond (okResponse (some (wordAt s.xsS w)))) :=
  match w with
  | 0 | 1 | 2 | 3 => withXs_of_seeded (fun q => complete (some (wordAt q _)) s) hw

theorem RunsTo.xsRead (hw : s.xsW = true) (w : Fin 4) (x : String)
    (hls : RunsTo ls ((x, wordAt s.xsS w) :: names) (s.respond (okResponse (some (wordAt s.xsS w)))) names' t) :
    RunsTo (⟨some x, .xsRead, [.num w]⟩ :: ls) names s names' t := by
  have hi : assemble names ⟨some x, .xsRead, [.num w]⟩ = some (xsReadOf w) := by
    rw [assemble_bind rfl, assemble_xsRead, if_pos w.isLt]
  exact .cons hi (exec_xsReadOf_of_seeded hw w) rfl rfl hls

end Lines

/-! ## The pseudo-instructions -/

/-- The host-side names after four results are bound in the order of `q`'s words. -/
def bindFour (names : HostNames) (a b c e : String) (q : Quad) : HostNames :=
  (e, q.w3) :: (c, q.w2) :: (b, q.w1) :: (a, q.w0) :: names

theorem lookup_bindFour {a b c e : String} (hnames : [a, b, c, e].Nodup) (names : HostNames) (q : Quad) :
    (bindFour names a b c e q).lookup a = some q.w0 ∧ (bindFour names a b c e q).lookup b = some q.w1 ∧
      (bindFour names a b c e q).lookup c = some q.w2 ∧ (bindFour names a b c e q).lookup e = some q.w3 := by
  obtain ⟨⟨hab, hac, hae⟩, ⟨hbc, hbe⟩, hce⟩ : (a ≠ b ∧ a ≠ c ∧ a ≠ e) ∧ (b ≠ c ∧ b ≠ e) ∧ c ≠ e := by
    simpa using hnames
  simp [bindFour, List.lookup_cons, beq_false_of_ne hab, beq_false_of_ne hac, beq_false_of_ne hae, beq_false_of_ne hbc,
    beq_false_of_ne hbe, beq_false_of_ne hce]

theorem runsTo_xsSave {s : State} (hw : s.xsW = true) (a b c e : String) (names : HostNames) :
    ∃ t, RunsTo (xsSave a b c e) names s (bindFour names a b c e s.xsS) t ∧ t.xsS = s.xsS ∧ t.fault = s.fault :=
  ⟨_, .xsRead hw 0 a (.xsRead hw 1 b (.xsRead hw 2 c (.xsRead hw 3 e (.nil _ _)))), rfl, rfl⟩

theorem runsTo_xsSeedFromSm {a b c e : String} (hnames : [a, b, c, e].Nodup) {o : AsmOperand} {v : Word}
    {names : HostNames} (ho : operandWord names o = some v) (s : State) :
    ∃ t, RunsTo (xsSeedFromSm o a b c e) names s (bindFour names a b c e (fourOutputs v)) t ∧
      t.xsS = fourOutputs v ∧ t.xsW = true ∧ t.smW = true ∧ t.fault = s.fault ∧ t.smS = smSteps 4 v := by
  obtain ⟨ha, hb, hc, he⟩ := lookup_bindFour hnames names (fourOutputs v)
  exact ⟨_, .smSeed ho (.smNext (n := 0) rfl rfl a (.smNext rfl rfl b (.smNext rfl rfl c (.smNext rfl rfl e
    (.xsSeed ha hb hc he (.nil _ _)))))), rfl, rfl, rfl, rfl, rfl⟩

/-- Settles O56: the lines run to the states above, and four outputs in a row differ, so two of them are not both
zero. -/
theorem pseudoInstructionsExpandAsStated : Obligations.PseudoInstructionsExpandAsStated := by
  intro a b c e names s hnames
  refine ⟨fun o v ho => ?_, fun hw => ?_⟩
  · obtain ⟨t, ⟨rs, hrun⟩, hxsS, hxsW, hsmW, hfault, hsmS⟩ := runsTo_xsSeedFromSm hnames ho s
    refine ⟨_, rs, t, _, _, _, _, hrun, rfl, rfl, rfl, rfl, hxsS, hxsW, hsmW, hfault, ?_, ?_, ?_⟩
    · rw [hsmS, smSteps_eq_add, add_comm]
      rfl
    · exact List.nodup_iff_count_le_one.1 (nodup_fourOutputs v) 0
    · exact hxsS ▸ fourOutputs_ne_zero v
  · obtain ⟨t, ⟨rs, hrun⟩, hxsS, hfault⟩ := runsTo_xsSave hw a b c e names
    obtain ⟨ha, hb, hc, he⟩ := lookup_bindFour hnames names s.xsS
    exact ⟨_, rs, t, hrun, ha, hb, hc, he, hxsS, hfault⟩

end Sys2Proof.Machine

namespace Sys2Proof.Machine

/-! ## The SplitMix64 step in natural numbers (R51) -/

theorem toNat_xor_ushiftRight (x : Word) (k : Nat) : (x ^^^ (x >>> k)).toNat = x.toNat ^^^ (x.toNat / 2 ^ k) := by
  rw [BitVec.toNat_xor, BitVec.toNat_ushiftRight, Nat.shiftRight_eq_div_pow]

/-- A multiplication line of R51: XOR with the right shift, then the product modulo 2^64. -/
theorem toNat_mul_xor_ushiftRight (c x : Word) (k : Nat) :
    (c * (x ^^^ (x >>> k))).toNat = ((x.toNat ^^^ (x.toNat / 2 ^ k)) * c.toNat) % 2 ^ 64 := by
  rw [BitVec.toNat_mul, toNat_xor_ushiftRight, Nat.mul_comm]

theorem toNat_smStep_fst (s : Word) : (smStep s).1.toNat = (s.toNat + Config.smGamma.toNat) % 2 ^ 64 := by
  rw [smStep, BitVec.toNat_add, Nat.add_comm]

theorem smStep_snd (s : Word) : (smStep s).2 = smMix (smStep s).1 := rfl

/-- Settles O25: each line of R51 is one operation on words, and its value in natural numbers is the rule's. -/
theorem smStepInNaturalArithmetic : Obligations.SmStepInNaturalArithmetic := by
  intro s
  refine ⟨toNat_smStep_fst s, ?_⟩
  rw [smStep_snd, smMix, toNat_xor_ushiftRight, toNat_mul_xor_ushiftRight, toNat_mul_xor_ushiftRight,
    toNat_smStep_fst]
  rfl

/-! ## The period of SplitMix64 and its outputs (R55) -/

theorem ofNat_eq_zero_iff_dvd (n : Nat) : (BitVec.ofNat 64 n : Word) = 0 ↔ 2 ^ 64 ∣ n := by
  rw [BitVec.toNat_eq, BitVec.toNat_ofNat, Nat.dvd_iff_mod_eq_zero]
  rfl

theorem smSteps_eq_self_iff (n : Nat) (x : Word) : smSteps n x = x ↔ 2 ^ 64 ∣ n := by
  rw [smSteps_eq_add, add_eq_right, isUnit_smGamma.mul_left_eq_zero, ofNat_eq_zero_iff_dvd]

/-- Settles O32: n steps add n times an odd increment, which is zero only when n is zero modulo 2^64; one step is
`n = 1`. -/
theorem smPeriodIsTwoToThe64 : Obligations.SmPeriodIsTwoToThe64 :=
  ⟨fun n s => (smSteps_eq_add n s).trans (add_comm _ s), smSteps_eq_self_iff,
    fun s h => absurd ((smSteps_eq_self_iff 1 s).1 h) (by decide)⟩

theorem smMix_zero : smMix 0 = 0 := by decide

/-- Settles O33: the mix is injective on a finite set, and a step outputs the mix of its new state. -/
theorem smMixIsABijection : Obligations.SmMixIsABijection :=
  ⟨Finite.injective_iff_bijective.1 smMix_injective, smMix_zero,
    fun s => by rw [smStep_snd, smMix_injective.eq_iff' smMix_zero]⟩

/-- Every state is reached from every other within one period. -/
theorem exists_smSteps_eq (x y : Word) : ∃ n < 2 ^ 64, smSteps n x = y := by
  obtain ⟨w, hw⟩ := (IsUnit.isUnit_iff_mulRight_bijective.1 isUnit_smGamma).surjective (y - x)
  refine ⟨w.toNat, w.isLt, ?_⟩
  calc smSteps w.toNat x
      = w * Config.smGamma + x := by rw [smSteps_eq_add, BitVec.ofNat_toNat, BitVec.setWidth_eq]
    _ = y := by rw [show w * Config.smGamma = y - x from hw, sub_add_cancel]

theorem smStep_snd_surjective : Function.Surjective fun x => (smStep x).2 :=
  Finite.injective_iff_surjective.1 smStep_snd_injective

/-- Settles O34: the value is the output of a step from some state, that state is reached within the period, and
outputs within one period differ. -/
theorem smOutputsEveryValueOncePerPeriod : Obligations.SmOutputsEveryValueOncePerPeriod := by
  intro s z
  obtain ⟨y, hy⟩ := smStep_snd_surjective z
  obtain ⟨n, hn, rfl⟩ := exists_smSteps_eq s y
  exact ⟨n, ⟨hn, hy⟩, fun m ⟨hm, hz⟩ => smOutput_inj hm hn (hz.trans hy.symm)⟩

/-! ## The SplitMix64 commands (R52, R53, R54) -/

/-- A seeded SplitMix64 command changes SM.s and the response, as its effect says, and nothing else. -/
theorem exec_sm_of_seeded {i : Instr} {s : State} (hi : isSm i = true) (hw : s.smW = true) :
    exec i s = .next { s with
      smS := (smEffect i s.smS).1, response := some (okResponse (smEffect i s.smS).2) } := by
  rw [exec_sm_of_executes hi (.inr hw), State.markSm_putSm_of_seeded _ hw, complete_putSm]

theorem exec_unseededAfter {i : Instr} {s : State} (hseed : isSeed i = false) (h : s.seeded (genOf i) = false) :
    ∃ t, exec i s = .next t ∧ unseededAfter (genOf i) s t :=
  ⟨_, (exec_of_unseeded hseed h).trans (takeUnseeded_eq (genOf i) s), _, rfl⟩

/-- Settles O15: the seed's byte and operand, and its whole next state. -/
theorem smSeedSetsTheState : Obligations.SmSeedSetsTheState :=
  fun v s => ⟨rfl, rfl, exec_smSeed v s⟩

/-- Settles O16: seeded, the command has the effect of one step, and unseeded it takes Unseeded. -/
theorem smNextAdvancesAndReturnsTheOutput : Obligations.SmNextAdvancesAndReturnsTheOutput :=
  ⟨rfl, fun _ => ⟨exec_sm_of_seeded (i := .smNext) rfl, exec_unseededAfter (i := .smNext) rfl⟩⟩

/-- Settles O17: seeded, the command has the effect of one step with the output converted, and unseeded it takes
Unseeded. -/
theorem smNextDoubleConvertsTheOutput : Obligations.SmNextDoubleConvertsTheOutput :=
  ⟨rfl, fun _ => ⟨exec_sm_of_seeded (i := .smNextDouble) rfl, exec_unseededAfter (i := .smNextDouble) rfl⟩⟩

end Sys2Proof.Machine

namespace Sys2Proof

/-! ## XOR on states (R63) -/

@[simp] theorem Quad.zero_xor (a : Quad) : Quad.zero.xor a = a := by
  simp [Quad.xor, Quad.zero]

@[simp] theorem Quad.xor_zero (a : Quad) : a.xor Quad.zero = a := by
  simp [Quad.xor, Quad.zero]

@[simp] theorem Quad.xor_self (a : Quad) : a.xor a = Quad.zero := by
  simp [Quad.xor, Quad.zero]

theorem word_xor_xor_xor_comm (a b c d : Word) : (a ^^^ b) ^^^ (c ^^^ d) = (a ^^^ c) ^^^ (b ^^^ d) := by
  ac_rfl

theorem Quad.xor_xor_xor_comm (a b c d : Quad) : (a.xor b).xor (c.xor d) = (a.xor c).xor (b.xor d) := by
  simp only [Quad.xor, word_xor_xor_xor_comm a.w0, word_xor_xor_xor_comm a.w1, word_xor_xor_xor_comm a.w2,
    word_xor_xor_xor_comm a.w3]

end Sys2Proof

namespace Sys2Proof.Machine

/-! ## The Xoshiro256+ commands (R58, R59, R60) -/

/-- A seeded Xoshiro256+ command changes XS.s and the response, as its effect says, and nothing else. -/
theorem exec_xs_of_seeded {i : Instr} {s : State} (hi : isSm i = false) (hw : s.xsW = true) :
    exec i s = .next { s with
      xsS := (xsEffect i s.xsS).1, response := some (okResponse (xsEffect i s.xsS).2) } := by
  rw [exec_xs_of_executes hi (.inr hw), State.markXs_putXs_of_seeded _ hw, complete_putXs]

/-- Settles O19: the seed's byte and operands, and its whole next state. -/
theorem xsSeedSetsTheFourWords : Obligations.XsSeedSetsTheFourWords :=
  fun a b c e s => ⟨rfl, exec_xsSeed a b c e s⟩

/-- Settles O20: seeded, the command has the effect of one step, and unseeded it takes Unseeded. -/
theorem xsNextAdvancesAndReturnsTheResult : Obligations.XsNextAdvancesAndReturnsTheResult :=
  ⟨rfl, fun _ => ⟨exec_xs_of_seeded (i := .xsNext) rfl, exec_unseededAfter (i := .xsNext) rfl⟩⟩

/-- Settles O21: seeded, the command has the effect of one step with the result converted, and unseeded it takes
Unseeded. -/
theorem xsNextDoubleConvertsTheResult : Obligations.XsNextDoubleConvertsTheResult :=
  ⟨rfl, fun _ => ⟨exec_xs_of_seeded (i := .xsNextDouble) rfl, exec_unseededAfter (i := .xsNextDouble) rfl⟩⟩

/-! ## The Xoshiro256+ step in parallel form, and its linearity (R57, R61) -/

theorem rotl_eq_rotateLeft {k : Nat} (hk : k < 64) (a : Word) : rotl a k = a.rotateLeft k := by
  rw [rotl, BitVec.rotateLeft_def, Nat.mod_eq_of_lt hk]

/-- Settles O26: lines 3 to 8 of R57 substituted into one another, which reorders some of the XORs. -/
theorem xsStepInParallelForm : Obligations.XsStepInParallelForm := by
  intro a0 a1 a2 a3
  have hrot : rotl (a3 ^^^ a1) Config.xsB = (a3 ^^^ a1).rotateLeft 45 := rotl_eq_rotateLeft (by decide) _
  simp only [xsStep, hrot, Prod.mk.injEq, Quad.mk.injEq, and_true]
  exact ⟨by ac_rfl, by ac_rfl, rfl⟩

theorem rotateLeft_xor (x y : Word) (k : Nat) : (x ^^^ y).rotateLeft k = x.rotateLeft k ^^^ y.rotateLeft k := by
  ext i hi
  simp only [BitVec.getElem_rotateLeft, BitVec.getElem_xor]
  split <;> rfl

theorem xsAdvance_mk (a0 a1 a2 a3 : Word) : xsAdvance ⟨a0, a1, a2, a3⟩ =
    ⟨a0 ^^^ a3 ^^^ a1, a1 ^^^ a2 ^^^ a0, a2 ^^^ a0 ^^^ (a1 <<< 17), (a3 ^^^ a1).rotateLeft 45⟩ :=
  congrArg Prod.fst (xsStepInParallelForm a0 a1 a2 a3)

theorem xsAdvance_xor (q u : Quad) : xsAdvance (q.xor u) = (xsAdvance q).xor (xsAdvance u) := by
  obtain ⟨q0, q1, q2, q3⟩ := q
  obtain ⟨u0, u1, u2, u3⟩ := u
  simp only [Quad.xor, xsAdvance_mk, BitVec.shiftLeft_xor_distrib, word_xor_xor_xor_comm, rotateLeft_xor]

/-- Settles O35: XOR, the shift and the rotation distribute over XOR, word by word. -/
theorem xsUpdateIsLinear : Obligations.XsUpdateIsLinear :=
  xsAdvance_xor

theorem xsAdvance_zero : xsAdvance Quad.zero = Quad.zero := by decide

theorem xsSteps_add (m n : Nat) (q : Quad) : xsSteps (m + n) q = xsSteps m (xsSteps n q) :=
  Function.iterate_add_apply xsAdvance m n q

end Sys2Proof.Machine

namespace Sys2Proof.Machine

/-! ## Binary exponentiation

The exponents of R61 (c) have up to 256 bits. `ladder` reads such an exponent bit by bit, the highest first, squaring
at each bit. -/

/-- Folds `step` over the lowest `k` bits of `e`, the highest first. -/
def ladder {α : Type} (step : ℕ → α → α) (z : α) : ℕ → ℕ → α
  | 0, _ => z
  | k + 1, e => step (e % 2) (ladder step z k (e / 2))

/-- A relation of exponents to values that `step` keeps while it doubles the exponent and adds the bit holds at the
end. -/
theorem ladder_spec {α : Type} {step : ℕ → α → α} {z : α} {P : ℕ → α → Prop} (hzero : P 0 z)
    (hstep : ∀ n r b, b < 2 → P n r → P (2 * n + b) (step b r)) {k e : ℕ} (he : e < 2 ^ k) :
    P e (ladder step z k e) := by
  induction k generalizing e with
  | zero =>
    obtain rfl : e = 0 := by omega
    exact hzero
  | succ k ih =>
    have hbit := hstep (e / 2) _ (e % 2) (Nat.mod_lt e two_pos) (ih (by omega))
    rwa [Nat.div_add_mod] at hbit

/-! ## The primes of 2^256 - 1 (R61)

Each of the larger ones is prime by Lucas's test, for a base `a` and the primes of `p - 1`. -/

/-- `a ^ e` modulo `p`, for an exponent of at most 80 bits. -/
def powMod (p a e : ℕ) : ℕ := ladder (fun b r => r * r * a ^ b % p) 1 80 e

theorem powMod_cast (p a : ℕ) {e : ℕ} (he : e < 2 ^ 80) : (powMod p a e : ZMod p) = (a : ZMod p) ^ e := by
  refine ladder_spec (P := fun n (r : ℕ) => (r : ZMod p) = (a : ZMod p) ^ n) ?_ (fun n r b _ hr => ?_) he
  · rw [Nat.cast_one, pow_zero]
  · rw [ZMod.natCast_mod, Nat.cast_mul, Nat.cast_mul, Nat.cast_pow, hr]
    ring

/-- What Lucas's test checks, where `qs` holds every prime of `p - 1`. -/
abbrev LucasTest (p a : ℕ) (qs : List ℕ) : Prop :=
  p < 2 ^ 80 ∧ p - 1 ∣ qs.prod ^ 16 ∧ powMod p a (p - 1) ≡ 1 [MOD p] ∧
    ∀ q ∈ qs, ¬ powMod p a ((p - 1) / q) ≡ 1 [MOD p]

theorem prime_of_lucasTest {p a : ℕ} {qs : List ℕ} (hqs : ∀ q ∈ qs, q.Prime) (h : LucasTest p a qs) : p.Prime := by
  obtain ⟨hp, hdvd, hone, hne⟩ := h
  have hlt (q : ℕ) : (p - 1) / q < 2 ^ 80 := (Nat.div_le_self _ q).trans_lt ((Nat.sub_le p 1).trans_lt hp)
  simp only [← ZMod.natCast_eq_natCast_iff, Nat.cast_one, powMod_cast p a (hlt _)] at hne
  rw [← ZMod.natCast_eq_natCast_iff, Nat.cast_one, powMod_cast p a ((Nat.sub_le p 1).trans_lt hp)] at hone
  refine lucas_primality p a hone fun q hq hqp => hne q ?_
  exact mem_list_primes_of_dvd_prod hq.prime (fun r hr => (hqs r hr).prime) (hq.dvd_of_dvd_pow (hqp.trans hdvd))

theorem prime_18533742247 : Nat.Prime 18533742247 :=
  prime_of_lucasTest (a := 6) (qs := [2, 3, 181, 1896229]) (by norm_num) (by decide +kernel)

theorem prime_116503103764643 : Nat.Prime 116503103764643 :=
  prime_of_lucasTest (a := 2) (qs := [18533742247, 2, 7, 449])
    (List.forall_mem_cons.2 ⟨prime_18533742247, by norm_num⟩) (by decide +kernel)

theorem prime_59649589127497217 : Nat.Prime 59649589127497217 :=
  prime_of_lucasTest (a := 3) (qs := [116503103764643, 2])
    (List.forall_mem_cons.2 ⟨prime_116503103764643, by norm_num⟩) (by decide +kernel)

theorem prime_55515497 : Nat.Prime 55515497 :=
  prime_of_lucasTest (a := 3) (qs := [2, 6939437]) (by norm_num) (by decide +kernel)

theorem prime_733803839347 : Nat.Prime 733803839347 :=
  prime_of_lucasTest (a := 2) (qs := [55515497, 2, 3, 2203])
    (List.forall_mem_cons.2 ⟨prime_55515497, by norm_num⟩) (by decide +kernel)

theorem prime_5704689200685129054721 : Nat.Prime 5704689200685129054721 :=
  prime_of_lucasTest (a := 21) (qs := [733803839347, 2, 3, 5, 12497])
    (List.forall_mem_cons.2 ⟨prime_733803839347, by norm_num⟩) (by decide +kernel)

theorem prime_67280421310721 : Nat.Prime 67280421310721 :=
  prime_of_lucasTest (a := 3) (qs := [2, 5, 47, 373, 2998279]) (by norm_num) (by decide +kernel)

/-- The prime factors of 2^256 - 1 (R61 (c)). -/
def periodPrimes : List ℕ :=
  [5704689200685129054721, 59649589127497217, 67280421310721, 6700417, 274177, 65537, 641, 257, 17, 5, 3]

theorem prod_periodPrimes : periodPrimes.prod = 2 ^ 256 - 1 := by decide +kernel

theorem prime_of_mem_periodPrimes : ∀ p ∈ periodPrimes, p.Prime :=
  List.forall_mem_cons.2 ⟨prime_5704689200685129054721, List.forall_mem_cons.2 ⟨prime_59649589127497217,
    List.forall_mem_cons.2 ⟨prime_67280421310721, by norm_num⟩⟩⟩

/-- A divisor of the product of some primes that divides none of the quotients by one of them is the whole product. -/
theorem eq_prod_of_forall_not_dvd_div {ps : List ℕ} (hps : ∀ p ∈ ps, p.Prime) {m : ℕ} (hm : m ∣ ps.prod)
    (h : ∀ p ∈ ps, ¬ m ∣ ps.prod / p) : m = ps.prod := by
  obtain ⟨k, hk⟩ := hm
  by_contra hne
  have hk1 : k ≠ 1 := fun h1 => hne (by rw [hk, h1, mul_one])
  obtain ⟨p, hp, j, rfl⟩ := Nat.exists_prime_and_dvd hk1
  have hmem : p ∈ ps :=
    mem_list_primes_of_dvd_prod hp.prime (fun r hr => (hps r hr).prime) ⟨m * j, by rw [hk]; ring⟩
  refine h p hmem ⟨j, ?_⟩
  rw [hk, Nat.mul_left_comm, Nat.mul_div_cancel_left _ hp.pos]

end Sys2Proof.Machine

namespace Sys2Proof.Machine

/-! ## Polynomials over GF(2) acting on states

The update is a linear map (R61 (a)), so polynomials over GF(2) in it act on states. A number stands for the polynomial
whose coefficient of `x ^ i` is the parity of digit `i` in base 2^16: while digits stay below the base, sums and
products of numbers are sums and products of polynomials, and the kernel multiplies numbers fast. -/

/-- `q` where the lowest bit of `d` is set, and otherwise the all-zero state. -/
def parityPart (d : ℕ) (q : Quad) : Quad := if d % 2 = 1 then q else Quad.zero

/-- The polynomial of the lowest `k` digits of `n`, at the state update, applied to `q`. -/
def polyAct : ℕ → ℕ → Quad → Quad
  | 0, _, _ => Quad.zero
  | k + 1, n, q => (parityPart n q).xor (xsAdvance (polyAct k (n / 65536) q))

/-- `n` has at most `k` digits in base 2^16, each at most `c`. -/
inductive DigitsLe (c : ℕ) : ℕ → ℕ → Prop
  | zero : DigitsLe c 0 0
  | cons {k d n : ℕ} : d ≤ c → DigitsLe c k n → DigitsLe c (k + 1) (d + 65536 * n)

theorem parityPart_congr {d d' : ℕ} (h : d % 2 = d' % 2) (q : Quad) : parityPart d q = parityPart d' q := by
  rw [parityPart, h, parityPart]

theorem parityPart_add (d d' : ℕ) (q : Quad) : parityPart (d + d') q = (parityPart d q).xor (parityPart d' q) := by
  obtain hd | hd := Nat.mod_two_eq_zero_or_one d <;> obtain hd' | hd' := Nat.mod_two_eq_zero_or_one d' <;>
    simp [parityPart, Nat.add_mod, hd, hd']

theorem parityPart_xsAdvance (d : ℕ) (q : Quad) : parityPart d (xsAdvance q) = xsAdvance (parityPart d q) := by
  rw [parityPart, parityPart, apply_ite xsAdvance, xsAdvance_zero]

theorem parityPart_zero (d : ℕ) : parityPart d Quad.zero = Quad.zero :=
  ite_self _

theorem polyAct_cons {d : ℕ} (hd : d < 65536) (k n : ℕ) (q : Quad) :
    polyAct (k + 1) (d + 65536 * n) q = (parityPart d q).xor (xsAdvance (polyAct k n q)) := by
  have hdiv : (d + 65536 * n) / 65536 = n := by omega
  rw [polyAct, hdiv, parityPart_congr (d' := d) (by omega)]

theorem polyAct_commute (k n : ℕ) : Function.Commute (polyAct k n) xsAdvance := by
  intro q
  induction k generalizing n with
  | zero => exact xsAdvance_zero.symm
  | succ k ih => rw [polyAct, polyAct, ih, parityPart_xsAdvance, xsAdvance_xor]

theorem polyAct_xsSteps (k n e : ℕ) (q : Quad) : polyAct k n (xsSteps e q) = xsSteps e (polyAct k n q) :=
  (polyAct_commute k n).iterate_right e q

theorem polyAct_zero_state (k n : ℕ) : polyAct k n Quad.zero = Quad.zero := by
  induction k generalizing n with
  | zero => rfl
  | succ k ih => rw [polyAct, ih, parityPart_zero, xsAdvance_zero, Quad.xor_zero]

theorem polyAct_zero (k : ℕ) (q : Quad) : polyAct k 0 q = Quad.zero := by
  induction k with
  | zero => rfl
  | succ k ih => rw [polyAct, Nat.zero_div, ih, xsAdvance_zero, Quad.xor_zero]; rfl

theorem digitsLe_zero (c k : ℕ) : DigitsLe c k 0 := by
  induction k with
  | zero => exact .zero
  | succ k ih => exact .cons (Nat.zero_le c) ih

/-! ### More digits -/

theorem DigitsLe.grow {c k k' n : ℕ} (h : DigitsLe c k n) (hk : k ≤ k') : DigitsLe c k' n := by
  induction h generalizing k' with
  | zero => exact digitsLe_zero c k'
  | cons hd _ ih =>
    obtain ⟨j, rfl⟩ := Nat.exists_eq_add_of_le' hk
    exact .cons hd (ih (Nat.le_add_left _ j))

theorem polyAct_grow {c k k' n : ℕ} (hc : c < 65536) (h : DigitsLe c k n) (hk : k ≤ k') (q : Quad) :
    polyAct k' n q = polyAct k n q := by
  induction h generalizing k' with
  | zero => exact polyAct_zero k' q
  | cons hd _ ih =>
    obtain ⟨j, rfl⟩ := Nat.exists_eq_add_of_le' hk
    have hlt := hd.trans_lt hc
    rw [← Nat.add_assoc, polyAct_cons hlt, polyAct_cons hlt, ih (by omega)]

theorem DigitsLe.of_lt {c k k' n : ℕ} (h : DigitsLe c k' n) (hn : n < 65536 ^ k) : DigitsLe c k n := by
  induction h generalizing k with
  | zero => exact digitsLe_zero c k
  | @cons k' d n hd hn' ih =>
    cases k with
    | zero =>
      obtain ⟨rfl, rfl⟩ : d = 0 ∧ n = 0 := by omega
      exact .zero
    | succ k => exact .cons hd (ih (by omega))

/-! ### Sums and products -/

theorem DigitsLe.add {c d k m n : ℕ} (hm : DigitsLe c k m) (hn : DigitsLe d k n) : DigitsLe (c + d) k (m + n) := by
  induction hm generalizing n with
  | zero => cases hn with | zero => exact .zero
  | cons hx _ ih =>
    cases hn with
    | cons hy hn' =>
      rw [add_add_add_comm, ← mul_add]
      exact .cons (Nat.add_le_add hx hy) (ih hn')

theorem polyAct_add {c d k m n : ℕ} (hcd : c + d < 65536) (hm : DigitsLe c k m) (hn : DigitsLe d k n) (q : Quad) :
    polyAct k (m + n) q = (polyAct k m q).xor (polyAct k n q) := by
  induction hm generalizing n with
  | zero => cases hn with | zero => exact (Quad.xor_self _).symm
  | cons hx _ ih =>
    cases hn with
    | cons hy hn' =>
      rw [add_add_add_comm, ← mul_add, polyAct_cons (by omega), polyAct_cons (by omega), polyAct_cons (by omega),
        ih hn', parityPart_add, xsAdvance_xor, Quad.xor_xor_xor_comm]

theorem DigitsLe.shift {c k n : ℕ} (h : DigitsLe c k n) : DigitsLe c (k + 1) (65536 * n) := by
  simpa using DigitsLe.cons (Nat.zero_le c) h

theorem polyAct_shift (k n : ℕ) (q : Quad) : polyAct (k + 1) (65536 * n) q = xsAdvance (polyAct k n q) := by
  have hcons := polyAct_cons (d := 0) (by decide) k n q
  rwa [Nat.zero_add, show parityPart 0 q = Quad.zero from rfl, Quad.zero_xor] at hcons

theorem DigitsLe.bit_mul {d k n : ℕ} (hd : d ≤ 1) (h : DigitsLe 1 k n) : DigitsLe 1 k (d * n) := by
  obtain rfl | rfl := Nat.le_one_iff_eq_zero_or_eq_one.1 hd
  · rw [Nat.zero_mul]
    exact digitsLe_zero 1 k
  · rwa [Nat.one_mul]

theorem polyAct_bit_mul {d : ℕ} (hd : d ≤ 1) (k n : ℕ) (q : Quad) :
    polyAct k (d * n) q = parityPart d (polyAct k n q) := by
  obtain rfl | rfl := Nat.le_one_iff_eq_zero_or_eq_one.1 hd
  · rw [Nat.zero_mul]
    exact polyAct_zero k q
  · rw [Nat.one_mul]
    rfl

theorem DigitsLe.mul {i j m n : ℕ} (hm : DigitsLe 1 i m) (hn : DigitsLe 1 j n) : DigitsLe i (j + i) (m * n) := by
  induction hm with
  | zero =>
    rw [Nat.zero_mul]
    exact digitsLe_zero 0 _
  | @cons i d m hd _ ih =>
    rw [add_mul, mul_assoc, add_comm (d * n)]
    exact ih.shift.add ((hn.bit_mul hd).grow (by omega))

/-- The digits of a product of numbers with digits 0 and 1 count pairs, so they stay below the base and the product acts
as the two factors one after the other. -/
theorem polyAct_mul {i j m n : ℕ} (hi : i < 65536) (hm : DigitsLe 1 i m) (hn : DigitsLe 1 j n) (q : Quad) :
    polyAct (j + i) (m * n) q = polyAct i m (polyAct j n q) := by
  induction hm with
  | zero =>
    rw [Nat.zero_mul]
    exact polyAct_zero _ q
  | @cons i d m hd hm ih =>
    have hgrow : DigitsLe 1 (j + i + 1) (d * n) := (hn.bit_mul hd).grow (by omega)
    calc polyAct (j + i + 1) ((d + 65536 * m) * n) q
        = (polyAct (j + i + 1) (d * n) q).xor (polyAct (j + i + 1) (65536 * (m * n)) q) := by
          rw [add_mul, mul_assoc, polyAct_add (by omega) hgrow (hm.mul hn).shift]
      _ = (parityPart d (polyAct j n q)).xor (xsAdvance (polyAct i m (polyAct j n q))) := by
          rw [polyAct_bit_mul hd, polyAct_grow (by decide) hn (by omega), polyAct_shift, ih (by omega)]
      _ = polyAct (i + 1) (d + 65536 * m) (polyAct j n q) := by
          rw [polyAct_cons (by omega)]

/-! ### Back to digits 0 and 1 -/

/-- `k` digits, each 1. -/
def ones : ℕ → ℕ
  | 0 => 0
  | k + 1 => 1 + 65536 * ones k

theorem and_ones_succ (n k : ℕ) : n &&& ones (k + 1) = n % 2 + 65536 * (n / 65536 &&& ones k) := by
  have hmod : (n &&& ones (k + 1)) % 2 ^ 16 = n % 2 := by
    have hone : ones (k + 1) % 2 ^ 16 = 1 := by rw [ones]; omega
    rw [Nat.and_mod_two_pow, hone, Nat.and_one_is_mod]
    omega
  have hdiv : (n &&& ones (k + 1)) / 2 ^ 16 = n / 65536 &&& ones k := by
    have hones : ones (k + 1) / 2 ^ 16 = ones k := by rw [ones]; omega
    rw [Nat.and_div_two_pow, hones]
  omega

theorem digitsLe_and_ones (k n : ℕ) : DigitsLe 1 k (n &&& ones k) := by
  induction k generalizing n with
  | zero =>
    rw [ones, Nat.and_zero]
    exact .zero
  | succ k ih =>
    rw [and_ones_succ]
    exact .cons (by omega) (ih _)

theorem polyAct_and_ones (k n : ℕ) (q : Quad) : polyAct k (n &&& ones k) q = polyAct k n q := by
  induction k generalizing n with
  | zero => rfl
  | succ k ih => rw [and_ones_succ, polyAct_cons (by omega), ih, parityPart_congr (Nat.mod_mod n 2), polyAct]

/-- The number with digits 0 and 1 for the polynomial written in the lowest `k` bits of `p`. -/
def spread : ℕ → ℕ → ℕ
  | 0, _ => 0
  | k + 1, p => p % 2 + 65536 * spread k (p / 2)

theorem digitsLe_spread (k p : ℕ) : DigitsLe 1 k (spread k p) := by
  induction k generalizing p with
  | zero => exact .zero
  | succ k ih => exact .cons (by omega) (ih _)

/-! ### Reduction by the characteristic polynomial -/

/-- The characteristic polynomial of the update. That it annihilates a state is checked where it is used. -/
def charPoly : ℕ := spread 257 0x10003c03c3f3ecb1904b4edcf26259f850280002bcefd1a5e9d116f2bb0f0f001

/-- The quotient of x^512 by the characteristic polynomial, for Barrett's reduction. -/
def barrettFactor : ℕ := spread 257 0x10003c0396f32c298132b61f2778b69e1aa1297eadd5e76b793a906d956fbc489

/-- Barrett's quotient of `n` by the characteristic polynomial. -/
def barrettQuotient (n : ℕ) : ℕ :=
  ((n &&& ones 513) / 65536 ^ 256 * barrettFactor / 65536 ^ 256) &&& ones 256

/-- Over GF(2), `n` less its quotient times the characteristic polynomial. -/
def reduce (n : ℕ) : ℕ := ((n &&& ones 513) + barrettQuotient n * charPoly) &&& ones 513

/-- Whatever the quotient is, a multiple of an annihilating polynomial changes nothing. -/
theorem polyAct_reduce {q : Quad} (hq : polyAct 257 charPoly q = Quad.zero) (n : ℕ) :
    polyAct 513 (reduce n) q = polyAct 513 n q := by
  have hquot : DigitsLe 1 256 (barrettQuotient n) := digitsLe_and_ones _ _
  have hchar : DigitsLe 1 257 charPoly := digitsLe_spread _ _
  have hmult : polyAct 513 (barrettQuotient n * charPoly) q = Quad.zero := by
    rw [polyAct_mul (by decide) hquot hchar, hq, polyAct_zero_state]
  rw [reduce, polyAct_and_ones, polyAct_add (by decide) (digitsLe_and_ones _ _) (hquot.mul hchar), polyAct_and_ones,
    hmult, Quad.xor_zero]

end Sys2Proof.Machine

namespace Sys2Proof.Machine

/-! ## Long leaps from one state

The states `xsSteps e startState` for exponents of up to 256 bits, by squaring polynomials modulo the characteristic
polynomial. -/

/-- The state the leaps start from: any non-zero one would do. -/
def startState : Quad := ⟨1, 0, 0, 0⟩

/-- `r` has digits 0 and 1, and its polynomial takes the start state `e` steps on. -/
structure Reaches (e r : ℕ) : Prop where
  digits : DigitsLe 1 256 r
  act : polyAct 256 r startState = xsSteps e startState

/-- Squares, multiplies by x if the bit `b` is 1, and reduces. That at most 256 digits are left is checked here and not
proved of Barrett's quotient: `none` if more are. -/
def squareStep (b r : ℕ) : Option ℕ :=
  let n := reduce (65536 ^ b * (r * r))
  if n < 65536 ^ 256 then some n else none

/-- `x ^ e` modulo the characteristic polynomial. -/
def powX (e : ℕ) : Option ℕ := ladder (fun b o => o.bind (squareStep b)) (some 1) 256 e

/-- `e` steps from the start state. -/
def leap (e : ℕ) : Option Quad := (powX e).map fun r => polyAct 256 r startState

theorem polyAct_charPoly_startState : polyAct 257 charPoly startState = Quad.zero := by decide +kernel

theorem reaches_zero : Reaches 0 1 where
  digits := .cons le_rfl (digitsLe_zero 1 255)
  act := by decide +kernel

theorem polyAct_mul_self {e r : ℕ} (h : Reaches e r) : polyAct 512 (r * r) startState = xsSteps (e + e) startState := by
  rw [polyAct_mul (by decide) h.digits h.digits, h.act, polyAct_xsSteps, h.act, xsSteps_add]

theorem polyAct_pow_mul {c k n b : ℕ} (hc : c < 65536) (hb : b < 2) (h : DigitsLe c k n) (q : Quad) :
    polyAct (k + 1) (65536 ^ b * n) q = xsSteps b (polyAct k n q) := by
  obtain rfl | rfl : b = 0 ∨ b = 1 := by omega
  · rw [pow_zero, one_mul, polyAct_grow hc h (Nat.le_succ k)]
    rfl
  · rw [pow_one, polyAct_shift]
    rfl

theorem reaches_squareStep {e r b s : ℕ} (h : Reaches e r) (hb : b < 2) (hs : squareStep b r = some s) :
    Reaches (2 * e + b) s := by
  obtain ⟨hlt, ⟨⟩⟩ := Option.ite_none_right_eq_some.1 hs
  have hdigits := (digitsLe_and_ones 513 _).of_lt hlt
  refine ⟨hdigits, ?_⟩
  calc polyAct 256 (reduce (65536 ^ b * (r * r))) startState
      = polyAct 513 (reduce (65536 ^ b * (r * r))) startState := (polyAct_grow (by decide) hdigits (by decide) _).symm
    _ = polyAct (512 + 1) (65536 ^ b * (r * r)) startState := polyAct_reduce polyAct_charPoly_startState _
    _ = xsSteps b (xsSteps (e + e) startState) := by
        rw [polyAct_pow_mul (by decide) hb (h.digits.mul h.digits), polyAct_mul_self h]
    _ = xsSteps (2 * e + b) startState := by rw [← xsSteps_add, two_mul, add_comm]

theorem reaches_powX {e r : ℕ} (he : e < 2 ^ 256) (h : powX e = some r) : Reaches e r := by
  refine ladder_spec (P := fun n o => ∀ r, o = some r → Reaches n r) ?_ ?_ he r h
  · rintro r ⟨⟩
    exact reaches_zero
  · intro n o b hb ho s hs
    obtain ⟨r, hr, hs⟩ := Option.bind_eq_some_iff.1 hs
    exact reaches_squareStep (ho r hr) hb hs

theorem xsSteps_of_leap {e : ℕ} {q : Quad} (he : e < 2 ^ 256) (h : leap e = some q) : xsSteps e startState = q := by
  obtain ⟨r, hr, rfl⟩ := Option.map_eq_some_iff.1 h
  exact (reaches_powX he hr).act.symm

/-! ## The period of the start state (R61 (c)) -/

theorem leap_period : leap (2 ^ 256 - 1) = some startState := by decide +kernel

/-- The leaps that show that no proper divisor of 2^256 - 1 is a period. -/
theorem leap_period_div_ne : ∀ p ∈ periodPrimes, ∃ q ∈ leap ((2 ^ 256 - 1) / p), q ≠ startState := by decide +kernel

theorem isPeriodicPt_startState : Function.IsPeriodicPt xsAdvance (2 ^ 256 - 1) startState :=
  xsSteps_of_leap (by decide) leap_period

theorem not_isPeriodicPt_startState {p : ℕ} (hp : p ∈ periodPrimes) :
    ¬ Function.IsPeriodicPt xsAdvance ((2 ^ 256 - 1) / p) startState := by
  obtain ⟨q, hq, hne⟩ := leap_period_div_ne p hp
  have hlt : (2 ^ 256 - 1) / p < 2 ^ 256 := (Nat.div_le_self _ p).trans_lt (by decide)
  exact fun h => hne ((xsSteps_of_leap hlt hq).symm.trans h)

theorem minimalPeriod_startState : Function.minimalPeriod xsAdvance startState = 2 ^ 256 - 1 := by
  rw [← prod_periodPrimes]
  refine eq_prod_of_forall_not_dvd_div prime_of_mem_periodPrimes ?_ fun p hp => ?_
  · rw [prod_periodPrimes]
    exact isPeriodicPt_startState.minimalPeriod_dvd
  · rw [prod_periodPrimes, ← Function.isPeriodicPt_iff_minimalPeriod_dvd]
    exact not_isPeriodicPt_startState hp

/-! ## One orbit holds every non-zero state

The start state's orbit has 2^256 - 1 states, none of them zero, and there are no more. -/

theorem minimalPeriod_xsSteps_startState (n : ℕ) :
    Function.minimalPeriod xsAdvance (xsSteps n startState) = 2 ^ 256 - 1 :=
  (Function.minimalPeriod_apply_iterate ⟨_, by decide, isPeriodicPt_startState⟩ n).trans minimalPeriod_startState

theorem xsSteps_startState_ne_zero (n : ℕ) : xsSteps n startState ≠ Quad.zero := by
  intro h
  have hperiod := minimalPeriod_xsSteps_startState n
  rw [h, Function.minimalPeriod_eq_one_iff_isFixedPt.2 xsAdvance_zero] at hperiod
  exact absurd hperiod (by decide)

/-- The four words of a state. -/
def quadEquiv : Quad ≃ Word × Word × Word × Word where
  toFun q := (q.w0, q.w1, q.w2, q.w3)
  invFun w := ⟨w.1, w.2.1, w.2.2.1, w.2.2.2⟩
  left_inv _ := rfl
  right_inv _ := rfl

theorem card_word : Nat.card Word = 2 ^ 64 := by
  rw [Nat.card_congr BitVec.equivFin.toEquiv, Nat.card_fin]

theorem card_quad : Nat.card Quad = 2 ^ 256 := by
  rw [Nat.card_congr quadEquiv, Nat.card_prod, Nat.card_prod, Nat.card_prod, card_word]
  norm_num

/-- The all-zero state and the start state's orbit. -/
def orbitOrZero : Option (Fin (2 ^ 256 - 1)) → Quad
  | none => Quad.zero
  | some n => xsSteps n startState

theorem orbitOrZero_injective : Function.Injective orbitOrZero := by
  rintro (_ | m) (_ | n) h
  · rfl
  · exact absurd h.symm (xsSteps_startState_ne_zero n)
  · exact absurd h (xsSteps_startState_ne_zero m)
  · have hinj := Function.iterate_injOn_Iio_minimalPeriod (f := xsAdvance) (x := startState)
    rw [minimalPeriod_startState] at hinj
    exact congrArg some (Fin.ext (hinj m.isLt n.isLt h))

theorem orbitOrZero_surjective : Function.Surjective orbitOrZero := by
  have hfinite : Finite Quad := Nat.finite_of_card_ne_zero (by rw [card_quad]; decide)
  refine (orbitOrZero_injective.bijective_of_nat_card_le ?_).surjective
  rw [card_quad, Finite.card_option, Nat.card_fin]
  decide

theorem exists_xsSteps_startState {q : Quad} (hq : q ≠ Quad.zero) : ∃ n, xsSteps n startState = q := by
  obtain ⟨_ | n, rfl⟩ := orbitOrZero_surjective q
  · exact absurd rfl hq
  · exact ⟨n, rfl⟩

theorem xsSteps_eq_self_iff {q : Quad} (hq : q ≠ Quad.zero) (n : ℕ) : xsSteps n q = q ↔ 2 ^ 256 - 1 ∣ n := by
  obtain ⟨k, rfl⟩ := exists_xsSteps_startState hq
  rw [← minimalPeriod_xsSteps_startState k, ← Function.isPeriodicPt_iff_minimalPeriod_dvd]
  rfl

/-- Settles O37: a non-zero state is on the start state's orbit, where the period is the start state's. -/
theorem xsPeriodIsTwoToThe256MinusOne : Obligations.XsPeriodIsTwoToThe256MinusOne :=
  fun _ => xsSteps_eq_self_iff

/-- Settles O36: a non-zero fixed point would have period 1. -/
theorem xsOnlyFixedPointIsZero : Obligations.XsOnlyFixedPointIsZero := by
  refine fun q => ⟨fun h => ?_, fun h => h ▸ xsAdvance_zero⟩
  by_contra hq
  exact absurd ((xsSteps_eq_self_iff hq 1).1 h) (by decide)

theorem xsSteps_ne_zero {q : Quad} (hq : q ≠ Quad.zero) (n : ℕ) : xsSteps n q ≠ Quad.zero := by
  obtain ⟨k, rfl⟩ := exists_xsSteps_startState hq
  rw [← xsSteps_add]
  exact xsSteps_startState_ne_zero (n + k)

/-! ## A jump commutes with the step (R67 (b)) -/

/-- The engine's state with both of its Xoshiro256+ states one step on. -/
def JumpEngine.advance (e : JumpEngine) : JumpEngine := ⟨xsAdvance e.acc, e.pos, xsAdvance e.work⟩

theorem jumpTick_advance (table : Quad) (e : JumpEngine) : jumpTick table e.advance = (jumpTick table e).advance := by
  simp only [jumpTick, JumpEngine.advance, ← xsAdvance_xor, apply_ite xsAdvance]

theorem jumpTicks_advance (table : Quad) (n : ℕ) (e : JumpEngine) :
    jumpTicks table n e.advance = (jumpTicks table n e).advance := by
  induction n generalizing e with
  | zero => rfl
  | succ n ih => rw [jumpTicks, jumpTicks, jumpTick_advance, ih]

theorem jumpStart_xsAdvance (q : Quad) : jumpStart (xsAdvance q) = (jumpStart q).advance := by
  rw [jumpStart, jumpStart, JumpEngine.advance, xsAdvance_zero]

theorem jumpEngine_xsAdvance (q table : Quad) : jumpEngine (xsAdvance q) table = xsAdvance (jumpEngine q table) := by
  rw [jumpEngine, jumpStart_xsAdvance, jumpTicks_advance]
  rfl

theorem jumpEngine_xsSteps (n : ℕ) (q table : Quad) :
    jumpEngine (xsSteps n q) table = xsSteps n (jumpEngine q table) :=
  Function.Commute.iterate_right (f := (jumpEngine · table)) (fun q => jumpEngine_xsAdvance q table) n q

/-! ## Live streams stay live (R61, R67, R90) -/

/-- A jump that moves the start state to a non-zero one does so with every non-zero state. -/
theorem jumpEngine_ne_zero {table : Quad} (h : jumpEngine startState table ≠ Quad.zero) {q : Quad}
    (hq : q ≠ Quad.zero) : jumpEngine q table ≠ Quad.zero := by
  obtain ⟨n, rfl⟩ := exists_xsSteps_startState hq
  rw [jumpEngine_xsSteps]
  exact xsSteps_ne_zero h n

theorem jumpEngine_jumpTable_ne_zero {q : Quad} (hq : q ≠ Quad.zero) : jumpEngine q Config.jumpTable ≠ Quad.zero :=
  jumpEngine_ne_zero (by decide +kernel) hq

theorem jumpEngine_longJumpTable_ne_zero {q : Quad} (hq : q ≠ Quad.zero) :
    jumpEngine q Config.longJumpTable ≠ Quad.zero :=
  jumpEngine_ne_zero (by decide +kernel) hq

theorem xsEffect_fst_ne_zero {i : Instr} (hi : ∀ a b c e, i ≠ .xsSeed a b c e) {q : Quad} (hq : q ≠ Quad.zero) :
    (xsEffect i q).1 ≠ Quad.zero := by
  cases i with
  | xsSeed a b c e => exact absurd rfl (hi a b c e)
  | xsNext | xsNextDouble => exact xsSteps_ne_zero hq 1
  | xsJump => exact jumpEngine_jumpTable_ne_zero hq
  | xsLongJump => exact jumpEngine_longJumpTable_ne_zero hq
  | _ => exact hq

/-- Settles O43: an instruction leaves XS.s, or takes one step, or jumps, and leaves XS.w set. -/
theorem liveStreamsStayLive : Obligations.LiveStreamsStayLive := by
  rintro i s t ⟨hw, hq⟩ hi h
  refine ⟨by rw [exec_xsW h, hw, Bool.true_or], ?_⟩
  obtain ⟨-, -, rfl⟩ | ⟨-, -, rfl⟩ | ⟨-, -, rfl⟩ := exec_next_cases h
  · exact hq
  · exact hq
  · exact xsEffect_fst_ne_zero hi hq

end Sys2Proof.Machine

namespace Sys2Proof.Machine

/-! ## The jump engine as a sum of visited states (R63) -/

/-- The XOR of the states `xsSteps k q` over the `k` below `n` whose table bit is set. -/
def visitedSum (table q : Quad) (n : ℕ) : Quad :=
  ((List.range n).filter (tableBit table)).foldl (fun a k => a.xor (xsSteps k q)) Quad.zero

theorem visitedSum_succ (table q : Quad) (n : ℕ) : visitedSum table q (n + 1) =
    if tableBit table n then (visitedSum table q n).xor (xsSteps n q) else visitedSum table q n := by
  rw [visitedSum, List.range_succ, List.filter_append, List.foldl_append, ← visitedSum]
  cases h : tableBit table n <;> simp [h]

theorem xsSteps_succ (n : ℕ) (q : Quad) : xsSteps (n + 1) q = xsAdvance (xsSteps n q) :=
  Function.iterate_succ_apply' xsAdvance n q

/-- `jumpTicks` makes its first pass first; here the last one is split off. -/
theorem jumpTicks_succ (table : Quad) (n : ℕ) (e : JumpEngine) :
    jumpTicks table (n + 1) e = jumpTick table (jumpTicks table n e) := by
  induction n generalizing e with
  | zero => rfl
  | succ n ih => rw [jumpTicks, ih, ← jumpTicks]

theorem jumpTicks_jumpStart (table q : Quad) (n : ℕ) :
    jumpTicks table n (jumpStart q) = ⟨visitedSum table q n, n, xsSteps n q⟩ := by
  induction n with
  | zero => rfl
  | succ n ih => rw [jumpTicks_succ, ih, jumpTick, visitedSum_succ, xsSteps_succ]

theorem jumpEngine_eq_visitedSum (q table : Quad) : jumpEngine q table = visitedSum table q 256 := by
  rw [jumpEngine, jumpTicks_jumpStart]
  rfl

/-- The model's word selection wraps at the fourth word; below 256 it is the plain indexing of R62. -/
theorem tableBit_of_lt (table : Quad) {k : ℕ} (hk : k < 256) : tableBit table k =
    ([table.w0, table.w1, table.w2, table.w3].getD (k / 64) 0).getLsbD (k % 64) := by
  have hword : k / 64 < 4 := by omega
  rw [tableBit]
  generalize k / 64 = w at hword
  interval_cases w <;> rfl

/-- Settles O27: pass by pass the accumulator is the sum of the states visited so far. -/
theorem jumpEngineSumsTheVisitedStates : Obligations.JumpEngineSumsTheVisitedStates := by
  intro q table
  rw [jumpTicks_jumpStart, jumpEngine_eq_visitedSum]
  refine ⟨rfl, ?_⟩
  rw [visitedSum, List.filter_congr fun k hk => tableBit_of_lt table (List.mem_range.1 hk)]

/-! ## The engine is linear (R67 (a)) -/

theorem xsSteps_xor (n : ℕ) (q u : Quad) : xsSteps n (q.xor u) = (xsSteps n q).xor (xsSteps n u) := by
  induction n with
  | zero => rfl
  | succ n ih => rw [xsSteps_succ, xsSteps_succ, xsSteps_succ, ih, xsAdvance_xor]

theorem visitedSum_xor (table q u : Quad) (n : ℕ) :
    visitedSum table (q.xor u) n = (visitedSum table q n).xor (visitedSum table u n) := by
  induction n with
  | zero => exact (Quad.zero_xor _).symm
  | succ n ih =>
    rw [visitedSum_succ, visitedSum_succ, visitedSum_succ, ih, xsSteps_xor]
    split
    · exact Quad.xor_xor_xor_comm _ _ _ _
    · rfl

theorem jumpEngine_xor (q u table : Quad) :
    jumpEngine (q.xor u) table = (jumpEngine q table).xor (jumpEngine u table) := by
  rw [jumpEngine_eq_visitedSum, jumpEngine_eq_visitedSum, jumpEngine_eq_visitedSum, visitedSum_xor]

theorem jumpEngine_zero (table : Quad) : jumpEngine Quad.zero table = Quad.zero := by
  rw [← Quad.xor_self Quad.zero, jumpEngine_xor, Quad.xor_self, Quad.xor_self]

/-- Settles O39: a sum of linear functions is linear, and the all-zero state is the sum of any state with itself. -/
theorem jumpEngineIsLinear : Obligations.JumpEngineIsLinear :=
  ⟨jumpEngine_xor, jumpEngine_zero⟩

/-! ## The jumps as strides (R64)

The engine commutes with the step, so where it takes the start state tells where it takes every state of the start
state's orbit, which holds every non-zero state. -/

theorem xsSteps_zero_state (n : ℕ) : xsSteps n Quad.zero = Quad.zero :=
  Function.iterate_fixed xsAdvance_zero n

theorem jumpEngine_eq_xsSteps {table : Quad} {e : ℕ} (h : jumpEngine startState table = xsSteps e startState)
    (q : Quad) : jumpEngine q table = xsSteps e q := by
  by_cases hq : q = Quad.zero
  · rw [hq, jumpEngine_zero, xsSteps_zero_state]
  · obtain ⟨n, rfl⟩ := exists_xsSteps_startState hq
    rw [jumpEngine_xsSteps, h, ← xsSteps_add, ← xsSteps_add, add_comm]

theorem leap_jump : leap (2 ^ 128) = some (jumpEngine startState Config.jumpTable) := by decide +kernel

theorem leap_longJump : leap (2 ^ 192) = some (jumpEngine startState Config.longJumpTable) := by decide +kernel

theorem jumpEngine_jumpTable (q : Quad) : jumpEngine q Config.jumpTable = xsSteps (2 ^ 128) q :=
  jumpEngine_eq_xsSteps (xsSteps_of_leap (by decide) leap_jump).symm q

theorem jumpEngine_longJumpTable (q : Quad) : jumpEngine q Config.longJumpTable = xsSteps (2 ^ 192) q :=
  jumpEngine_eq_xsSteps (xsSteps_of_leap (by decide) leap_longJump).symm q

/-- Settles O38: the start state's jumps, compared with its leaps by evaluation, and so every state's. -/
theorem jumpsAreExactStrides : Obligations.JumpsAreExactStrides :=
  fun q => ⟨jumpEngine_jumpTable q, jumpEngine_longJumpTable q⟩

/-! ## What follows from the strides (R67 (b), (c), (d)) -/

/-- Settles O40: a jump commutes with any number of steps, and the other jump is a number of steps. -/
theorem jumpsCommute : Obligations.JumpsCommute := by
  refine ⟨jumpEngine_xsAdvance, fun q => ?_⟩
  rw [jumpEngine_jumpTable, jumpEngine_jumpTable, jumpEngine_xsSteps]

/-- Settles O41: neither stride is a multiple of the period. -/
theorem jumpsMoveNonZeroStates : Obligations.JumpsMoveNonZeroStates := by
  refine fun q hq => ⟨?_, jumpEngine_jumpTable_ne_zero hq, ?_, jumpEngine_longJumpTable_ne_zero hq⟩
  · rw [jumpEngine_jumpTable, Ne, xsSteps_eq_self_iff hq]
    decide
  · rw [jumpEngine_longJumpTable, Ne, xsSteps_eq_self_iff hq]
    decide

/-- Two visits of one non-zero state lie whole periods apart. -/
theorem dvd_of_xsSteps_eq {q : Quad} (hq : q ≠ Quad.zero) {m k : ℕ} (h : xsSteps m q = xsSteps (k + m) q) :
    2 ^ 256 - 1 ∣ k := by
  rw [xsSteps_add] at h
  exact (xsSteps_eq_self_iff (xsSteps_ne_zero hq m) k).1 h.symm

/-- Settles O42: the two positions on the orbit are fewer than 2^129 steps apart, less than one period. -/
theorem streamsAfterAJumpDoNotOverlap : Obligations.StreamsAfterAJumpDoNotOverlap := by
  intro q hq i j hi hj h
  obtain ⟨k, hk⟩ : ∃ k, j + 2 ^ 128 = k + i := ⟨j + 2 ^ 128 - i, by omega⟩
  rw [jumpEngine_jumpTable, ← xsSteps_add, hk] at h
  have hle := Nat.le_of_dvd (by omega) (dvd_of_xsSteps_eq hq h)
  omega

/-! ## The jump commands (R65, R66) -/

/-- Settles O23: seeded, the command has the effect of the engine on JUMP_TABLE, and unseeded it takes Unseeded. -/
theorem xsJumpRunsTheEngine : Obligations.XsJumpRunsTheEngine :=
  ⟨rfl, fun _ => ⟨exec_xs_of_seeded (i := .xsJump) rfl, exec_unseededAfter (i := .xsJump) rfl⟩⟩

/-- Settles O24: seeded, the command has the effect of the engine on LONG_JUMP_TABLE, and unseeded it takes
Unseeded. -/
theorem xsLongJumpRunsTheEngine : Obligations.XsLongJumpRunsTheEngine :=
  ⟨rfl, fun _ => ⟨exec_xs_of_seeded (i := .xsLongJump) rfl, exec_unseededAfter (i := .xsLongJump) rfl⟩⟩

end Sys2Proof.Machine

namespace Sys2Proof.Machine

/-! # The double converter (O28 to O31, spec/43_double_converter.md) -/

/-! ## The binary64 fields of a pattern given in natural numbers (R69) -/

section Fields

variable {b : Word} {e f : ℕ}

theorem binary64Exponent_eq (hb : b.toNat = e * 2 ^ 52 + f) (hf : f < 2 ^ 52) (he : e < 2 ^ 11) :
    binary64Exponent b = e := by
  rw [binary64Exponent, BitVec.extractLsb'_toNat, Nat.shiftRight_eq_div_pow, hb]
  omega

theorem binary64Fraction_eq (hb : b.toNat = e * 2 ^ 52 + f) (hf : f < 2 ^ 52) : binary64Fraction b = f := by
  rw [binary64Fraction, BitVec.extractLsb'_toNat, Nat.shiftRight_eq_div_pow, hb]
  omega

theorem binary64Sign_eq_false (hb : b.toNat = e * 2 ^ 52 + f) (hf : f < 2 ^ 52) (he : e < 2 ^ 11) :
    binary64Sign b = false := by
  have hlt : b.toNat < 2 ^ 63 := by omega
  exact Nat.testBit_lt_two_pow hlt

/-- R69's formula, for a positive normal number. -/
theorem binary64Value_eq (hb : b.toNat = e * 2 ^ 52 + f) (hf : f < 2 ^ 52) (he : 1 ≤ e) (he' : e ≤ 2046) :
    binary64Value b = some ((2 : ℚ) ^ ((e : ℤ) - 1023) * (1 + (f : ℚ) / 2 ^ 52)) := by
  have hb0 : b ≠ 0 := by
    rintro rfl
    have hzero : (0 : Word).toNat = 0 := rfl
    omega
  have hexp := binary64Exponent_eq hb hf (by omega)
  have hsign := binary64Sign_eq_false hb hf (by omega)
  rw [binary64Value, if_neg hb0, hexp, hsign, binary64Fraction_eq hb hf, if_pos ⟨he, he'⟩]
  simp

end Fields

/-! ## The converted bits and the pattern (R70) -/

theorem toNat_cvtMantissa (x : Word) : (cvtMantissa x).toNat = x.toNat / 2 ^ 12 := by
  rw [cvtMantissa, BitVec.toNat_ushiftRight, Nat.shiftRight_eq_div_pow]
  rfl

theorem cvtMantissa_lt (x : Word) : (cvtMantissa x).toNat < 2 ^ 52 := by
  rw [toNat_cvtMantissa]
  omega

theorem cvtMantissa_eq_zero_iff (x : Word) : cvtMantissa x = 0 ↔ x.toNat < 2 ^ 12 := by
  rw [← BitVec.toNat_inj, toNat_cvtMantissa]
  simp

theorem toNat_cvtMantissa_ne_zero {x : Word} (hm : cvtMantissa x ≠ 0) : (cvtMantissa x).toNat ≠ 0 :=
  fun h => hm (BitVec.eq_of_toNat_eq h)

theorem log2_cvtMantissa_le {x : Word} (hm : cvtMantissa x ≠ 0) : (cvtMantissa x).toNat.log2 ≤ 51 :=
  Nat.le_of_lt_succ ((Nat.log2_lt (toNat_cvtMantissa_ne_zero hm)).2 (cvtMantissa_lt x))

/-- The fraction field of a non-zero result: m moved up to bit 52, without its leading bit. -/
def cvtFraction (x : Word) : ℕ :=
  (cvtMantissa x).toNat * 2 ^ (52 - (cvtMantissa x).toNat.log2) % 2 ^ 52

theorem cvtFraction_lt (x : Word) : cvtFraction x < 2 ^ 52 := Nat.mod_lt _ (by decide)

/-- The leading bit that the mask drops is bit 52 of the moved m. -/
theorem two_pow_add_cvtFraction {x : Word} (hm : cvtMantissa x ≠ 0) :
    2 ^ 52 + cvtFraction x = (cvtMantissa x).toNat * 2 ^ (52 - (cvtMantissa x).toNat.log2) := by
  have hlog := log2_cvtMantissa_le hm
  have hlo := Nat.log2_self_le (toNat_cvtMantissa_ne_zero hm)
  have hhi := Nat.lt_log2_self (n := (cvtMantissa x).toNat)
  rw [cvtFraction]
  generalize (cvtMantissa x).toNat = m at *
  have hle : 2 ^ 52 ≤ m * 2 ^ (52 - m.log2) := by
    calc 2 ^ 52 = 2 ^ m.log2 * 2 ^ (52 - m.log2) := by rw [← pow_add]; congr 1; omega
      _ ≤ m * 2 ^ (52 - m.log2) := Nat.mul_le_mul_right _ hlo
  have hlt : m * 2 ^ (52 - m.log2) < 2 ^ 53 := by
    calc m * 2 ^ (52 - m.log2) < 2 ^ (m.log2 + 1) * 2 ^ (52 - m.log2) :=
          Nat.mul_lt_mul_of_pos_right hhi (by positivity)
      _ = 2 ^ 53 := by rw [← pow_add]; congr 1; omega
  omega

theorem toUnitDouble_of_cvtMantissa_eq_zero {x : Word} (hm : cvtMantissa x = 0) : toUnitDouble x = 0 := by
  simp [toUnitDouble, hm]

/-- The exponent and fraction fields of a non-zero result do not overlap, so the rule's `|` is a sum. -/
theorem toNat_toUnitDouble {x : Word} (hm : cvtMantissa x ≠ 0) :
    (toUnitDouble x).toNat = ((cvtMantissa x).toNat.log2 + 971) * 2 ^ 52 + cvtFraction x := by
  have hlog := log2_cvtMantissa_le hm
  have hexp : (BitVec.ofNat 64 ((cvtMantissa x).toNat.log2 + 971) <<< 52).toNat =
      2 ^ 52 * ((cvtMantissa x).toNat.log2 + 971) := by
    rw [BitVec.toNat_shiftLeft, BitVec.toNat_ofNat, Nat.shiftLeft_eq]
    omega
  have hfrac : ((cvtMantissa x <<< (52 - (cvtMantissa x).toNat.log2)) &&& 0x000FFFFFFFFFFFFF).toNat =
      cvtFraction x := by
    rw [BitVec.toNat_and, BitVec.toNat_shiftLeft, Nat.shiftLeft_eq, cvtFraction]
    exact (Nat.and_two_pow_sub_one_eq_mod _ 52).trans (Nat.mod_mod_of_dvd _ (by decide))
  simp only [toUnitDouble, hm, if_false]
  rw [BitVec.toNat_or, hexp, hfrac, ← Nat.two_pow_add_eq_or_of_lt (cvtFraction_lt x), mul_comm]

theorem toUnitDouble_eq_zero_iff (x : Word) : toUnitDouble x = 0 ↔ cvtMantissa x = 0 := by
  refine ⟨fun h => ?_, toUnitDouble_of_cvtMantissa_eq_zero⟩
  by_contra hm
  have hnat := toNat_toUnitDouble hm
  have hzero : (0 : Word).toNat = 0 := rfl
  rw [h, hzero] at hnat
  omega

/-- The exponent field e + 971, less its bias, undoes the shift by 52 - e. -/
theorem two_zpow_mul_two_pow {e : ℕ} (he : e ≤ 52) :
    (2 : ℚ) ^ (((e + 971 : ℕ) : ℤ) - 1023) * 2 ^ (52 - e) = 1 := by
  have hexp : ((e + 971 : ℕ) : ℤ) - 1023 = -((52 - e : ℕ) : ℤ) := by omega
  rw [hexp, zpow_neg, zpow_natCast, inv_mul_cancel₀ (by positivity)]

/-- The value of a result is m × 2^-52: the significand is m moved up by 52 - e, and the exponent moves it back. -/
theorem binary64Value_toUnitDouble (x : Word) :
    binary64Value (toUnitDouble x) = some (((cvtMantissa x).toNat : ℚ) / 2 ^ 52) := by
  by_cases hm : cvtMantissa x = 0
  · rw [toUnitDouble_of_cvtMantissa_eq_zero hm, hm]
    simp [binary64Value]
  · have hlog := log2_cvtMantissa_le hm
    have hsig : (1 : ℚ) + cvtFraction x / 2 ^ 52 =
        (cvtMantissa x).toNat * 2 ^ (52 - (cvtMantissa x).toNat.log2) / 2 ^ 52 := by
      have hfrac := congrArg (Nat.cast (R := ℚ)) (two_pow_add_cvtFraction hm)
      push_cast at hfrac
      rw [← hfrac]
      ring
    rw [binary64Value_eq (toNat_toUnitDouble hm) (cvtFraction_lt x) (by omega) (by omega), hsig, mul_div_assoc',
      mul_left_comm, two_zpow_mul_two_pow (by omega), mul_one]

/-- Settles O28: the two fields in natural numbers, and the value they encode. -/
theorem converterEncodesExactlyTheTopBits : Obligations.ConverterEncodesExactlyTheTopBits := by
  intro x
  rw [← toNat_cvtMantissa]
  refine ⟨?_, binary64Value_toUnitDouble x⟩
  by_cases hm : cvtMantissa x = 0
  · simp [toUnitDouble_of_cvtMantissa_eq_zero hm, hm]
  · rw [if_neg (toNat_cvtMantissa_ne_zero hm)]
    exact toNat_toUnitDouble hm

/-! ## The source's construction (R71) -/

/-- The pattern of 1.0 has an empty fraction field, which m fills. -/
theorem toNat_sourcePattern (x : Word) : (sourcePattern x).toNat = 1023 * 2 ^ 52 + (cvtMantissa x).toNat := by
  rw [sourcePattern, BitVec.toNat_or, Nat.or_comm]
  exact (Nat.two_pow_add_eq_or_of_lt (cvtMantissa_lt x) 1023).symm

theorem binary64Value_sourcePattern (x : Word) :
    binary64Value (sourcePattern x) = some (1 + ((cvtMantissa x).toNat : ℚ) / 2 ^ 52) := by
  rw [binary64Value_eq (toNat_sourcePattern x) (cvtMantissa_lt x) (by decide) (by decide)]
  simp

theorem cvtMantissa_div_lt_one (x : Word) : ((cvtMantissa x).toNat : ℚ) / 2 ^ 52 < 1 := by
  rw [div_lt_one (by positivity)]
  exact_mod_cast cvtMantissa_lt x

/-- Settles O29: both patterns' values are known exactly, and they differ by 1. -/
theorem converterEqualsTheSourceConstruction : Obligations.ConverterEqualsTheSourceConstruction := by
  intro x
  rw [← toNat_cvtMantissa]
  have hlt := cvtMantissa_div_lt_one x
  have hnonneg : 0 ≤ ((cvtMantissa x).toNat : ℚ) / 2 ^ 52 := by positivity
  exact ⟨_, _, binary64Value_sourcePattern x, rfl, by linarith, by linarith, binary64Value_toUnitDouble x, by ring⟩

/-! ## Range and fields (R73 (a), (b)) -/

theorem binary64Sign_toUnitDouble (x : Word) : binary64Sign (toUnitDouble x) = false := by
  by_cases hm : cvtMantissa x = 0
  · rw [toUnitDouble_of_cvtMantissa_eq_zero hm]
    rfl
  · have hlog := log2_cvtMantissa_le hm
    exact binary64Sign_eq_false (toNat_toUnitDouble hm) (cvtFraction_lt x) (by omega)

theorem binary64Exponent_toUnitDouble {x : Word} (hm : cvtMantissa x ≠ 0) :
    binary64Exponent (toUnitDouble x) = (cvtMantissa x).toNat.log2 + 971 := by
  have hlog := log2_cvtMantissa_le hm
  exact binary64Exponent_eq (toNat_toUnitDouble hm) (cvtFraction_lt x) (by omega)

theorem cvtMantissa_div_le (x : Word) : ((cvtMantissa x).toNat : ℚ) / 2 ^ 52 ≤ 1 - 1 / 2 ^ 52 := by
  have hle : ((cvtMantissa x).toNat : ℚ) + 1 ≤ 2 ^ 52 := by exact_mod_cast cvtMantissa_lt x
  rw [le_sub_iff_add_le, ← add_div]
  exact div_le_one_of_le₀ hle (by positivity)

theorem le_cvtMantissa_div {x : Word} (hm : cvtMantissa x ≠ 0) :
    1 / 2 ^ 52 ≤ ((cvtMantissa x).toNat : ℚ) / 2 ^ 52 := by
  have hpos : 1 ≤ (cvtMantissa x).toNat := Nat.pos_of_ne_zero (toNat_cvtMantissa_ne_zero hm)
  gcongr
  exact_mod_cast hpos

theorem cvtMantissa_max : (cvtMantissa 0xFFFFFFFFFFFFFFFF).toNat = 2 ^ 52 - 1 := by decide

theorem cvtMantissa_min : (cvtMantissa 0x1000).toNat = 1 := by decide

theorem toUnitDouble_max : toUnitDouble 0xFFFFFFFFFFFFFFFF = 0x3FEFFFFFFFFFFFFE := by decide

theorem toUnitDouble_min : toUnitDouble 0x1000 = 0x3CB0000000000000 := by decide

/-- Settles O30: the fields and the value of every result; the two extreme patterns are results, so their values are
the converter's. -/
theorem converterRangeAndFields : Obligations.ConverterRangeAndFields := by
  refine ⟨fun x => ⟨binary64Sign_toUnitDouble x, fun hr => ?_, _, binary64Value_toUnitDouble x, by positivity,
    cvtMantissa_div_le x, fun hr => ?_⟩, toUnitDouble_max, toUnitDouble_min, ?_, ?_⟩
  · have hm := mt (toUnitDouble_eq_zero_iff x).2 hr
    have hlog := log2_cvtMantissa_le hm
    rw [binary64Exponent_toUnitDouble hm]
    omega
  · exact le_cvtMantissa_div (mt (toUnitDouble_eq_zero_iff x).2 hr)
  · rw [← toUnitDouble_max, binary64Value_toUnitDouble, cvtMantissa_max]
    norm_num
  · rw [← toUnitDouble_min, binary64Value_toUnitDouble, cvtMantissa_min]
    norm_num

/-! ## Order and fibres (R73 (c), (d)) -/

/-- The pattern depends on m alone, and its value gives m back. -/
theorem toUnitDouble_eq_iff (x x' : Word) : toUnitDouble x = toUnitDouble x' ↔ cvtMantissa x = cvtMantissa x' := by
  refine ⟨fun h => ?_, fun h => by rw [toUnitDouble, toUnitDouble, h]⟩
  have hv := binary64Value_toUnitDouble x
  rw [h, binary64Value_toUnitDouble, Option.some_inj, div_left_inj' (by positivity), Nat.cast_inj] at hv
  exact BitVec.eq_of_toNat_eq hv.symm

theorem cvtMantissa_mono {x x' : Word} (h : x.toNat ≤ x'.toNat) : (cvtMantissa x).toNat ≤ (cvtMantissa x').toNat := by
  rw [toNat_cvtMantissa, toNat_cvtMantissa]
  exact Nat.div_le_div_right h

/-- The words with one m are an interval of 2^12 words, which starts at m × 2^12. -/
theorem ncard_cvtMantissa_fibre (x : Word) : {x' : Word | cvtMantissa x' = cvtMantissa x}.ncard = 2 ^ 12 := by
  have hm := cvtMantissa_lt x
  generalize hq : (cvtMantissa x).toNat = m at hm
  have hset : {x' : Word | cvtMantissa x' = cvtMantissa x} =
      BitVec.toNat ⁻¹' Set.Ico (m * 2 ^ 12) (m * 2 ^ 12 + 2 ^ 12) := by
    ext x'
    rw [Set.mem_ofPred_eq, ← BitVec.toNat_inj, hq, toNat_cvtMantissa, Set.mem_preimage, Set.mem_Ico]
    omega
  have hrange : Set.Ico (m * 2 ^ 12) (m * 2 ^ 12 + 2 ^ 12) ⊆ Set.range (BitVec.toNat : Word → ℕ) := by
    rintro n ⟨-, hn⟩
    exact ⟨BitVec.ofNat 64 n, Nat.mod_eq_of_lt (by omega)⟩
  rw [hset, Set.ncard_preimage_of_injective_subset_range BitVec.toNat_injective hrange, Set.ncard_Ico_nat]
  omega

/-- Settles O31: value and pattern are m's, and m is the input divided by 2^12. -/
theorem converterMonotoneAndFlat : Obligations.ConverterMonotoneAndFlat := by
  refine ⟨fun x x' h => ⟨_, _, binary64Value_toUnitDouble x, binary64Value_toUnitDouble x', ?_⟩,
    toUnitDouble_eq_iff, fun x => ?_, fun x => ?_⟩
  · gcongr
    exact cvtMantissa_mono h
  · simp only [toUnitDouble_eq_iff]
    exact ncard_cvtMantissa_fibre x
  · rw [toUnitDouble_eq_zero_iff, cvtMantissa_eq_zero_iff]

end Sys2Proof.Machine

namespace Sys2Proof.Machine

/-! ## The state reads (R74, R75) -/

/-- Settles O18: seeded, the command has the effect of a read of SM.s, and unseeded it takes Unseeded. -/
theorem smReadReturnsTheState : Obligations.SmReadReturnsTheState :=
  ⟨rfl, fun _ => ⟨exec_sm_of_seeded (i := .smRead) rfl, exec_unseededAfter (i := .smRead) rfl⟩⟩

/-- Settles O22: seeded, the four commands read the four words, and unseeded each takes Unseeded. -/
theorem xsReadReturnsTheSelectedWord : Obligations.XsReadReturnsTheSelectedWord := by
  refine ⟨rfl, rfl, rfl, rfl, fun s => ⟨fun hw => ?_, fun hw i hi => ?_⟩⟩
  · have hread := exec_xsReadOf_of_seeded hw
    exact ⟨hread 0, hread 1, hread 2, hread 3⟩
  · obtain ⟨hseed, hgen⟩ : isSeed i = false ∧ genOf i = .xs := by
      have hreads : ∀ j ∈ [Instr.xsRead0, .xsRead1, .xsRead2, .xsRead3], isSeed j = false ∧ genOf j = .xs := by decide
      exact hreads i hi
    rw [← hgen]
    exact exec_unseededAfter hseed (by rw [hgen]; exact hw)

/-! ## Save and restore (R76) -/

/-- When a relation between two states is kept by the transactions of a list's commands, which answer alike on both
sides, the whole list is answered alike. -/
theorem runCommands_responses_eq {R : State → State → Prop} {cs : List Command}
    (hstep : ∀ c ∈ cs, ∀ s s', R s s' →
      ∃ r t t', transact c s = some (r, t) ∧ transact c s' = some (r, t') ∧ R t t')
    {s s' : State} (h : R s s') : (runCommands cs s).map (·.1) = (runCommands cs s').map (·.1) := by
  suffices hruns : ∃ rs u u', runCommands cs s = some (rs, u) ∧ runCommands cs s' = some (rs, u') by
    obtain ⟨rs, u, u', hs, hs'⟩ := hruns
    rw [hs, hs']
    rfl
  induction cs generalizing s s' with
  | nil => exact ⟨[], s, s', rfl, rfl⟩
  | cons c cs ih =>
    obtain ⟨hc, hcs⟩ := List.forall_mem_cons.1 hstep
    obtain ⟨r, t, t', ht, ht', hR⟩ := hc s s' h
    obtain ⟨rs, u, u', hu, hu'⟩ := ih hcs hR
    exact ⟨r :: rs, u, u', runCommands_cons ht hu, runCommands_cons ht' hu'⟩

/-- SplitMix64 commands are answered as by any state with the same SplitMix64 generator. -/
theorem Combines.responses_sm {x y s : State} (h : Combines x y s) {cs : List Command} (hcs : ∀ c ∈ cs, smCommand c) :
    (runCommands cs x).map (·.1) = (runCommands cs s).map (·.1) :=
  runCommands_responses_eq (R := fun x s => Combines x y s) (fun c hc _ _ hR => hR.transact_sm (hcs c hc)) h

/-- Xoshiro256+ commands are answered as by any state with the same Xoshiro256+ generator. -/
theorem Combines.responses_xs {x y s : State} (h : Combines x y s) {cs : List Command} (hcs : ∀ c ∈ cs, xsCommand c) :
    (runCommands cs y).map (·.1) = (runCommands cs s).map (·.1) :=
  runCommands_responses_eq (R := fun y s => Combines x y s) (fun c hc _ _ hR => hR.transact_xs (hcs c hc)) h

theorem transact_encode {i : Instr} {s t : State} {r : Response} (h : exec i s = .next t) (hr : t.response = some r) :
    transact (encode i) s = some (r, t) :=
  transact_of_exec (decode_encode i) h hr

theorem transact_xsReadOf {s : State} (hw : s.xsW = true) (w : Fin 4) :
    transact (encode (xsReadOf w)) s =
      some (okResponse (some (wordAt s.xsS w)), s.respond (okResponse (some (wordAt s.xsS w)))) :=
  transact_encode (exec_xsReadOf_of_seeded hw w) rfl

/-- The four reads in order return the four words of XS.s (R75). -/
theorem runCommands_xsReads {s : State} (hw : s.xsW = true) :
    ∃ t, runCommands [encode .xsRead0, encode .xsRead1, encode .xsRead2, encode .xsRead3] s =
      some ([okResponse (some s.xsS.w0), okResponse (some s.xsS.w1), okResponse (some s.xsS.w2),
        okResponse (some s.xsS.w3)], t) :=
  ⟨_, runCommands_cons (transact_xsReadOf hw 0) (runCommands_cons (transact_xsReadOf hw 1)
    (runCommands_cons (transact_xsReadOf hw 2) (runCommands_cons (transact_xsReadOf hw 3) (runCommands_nil _))))⟩

/-- Settles O55: the state seeded with the words read holds the generator they were read from, so that generator's
commands answer the same from both. -/
theorem saveAndRestoreIsExact : Obligations.SaveAndRestoreIsExact := by
  refine ⟨fun s t cs hw hcs => ?_, fun s t cs hw hcs => ?_⟩
  · have hrestored : Combines s t ((t.putSm s.smS).markSm.respond (okResponse none)) := ⟨rfl, hw.symm, rfl, rfl⟩
    exact ⟨s.smS, _, _, transact_encode (exec_sm_of_seeded rfl hw) rfl,
      transact_encode (exec_smSeed s.smS t) rfl, hrestored.responses_sm hcs⟩
  · have hrestored : Combines t s ((t.putXs s.xsS).markXs.respond (okResponse none)) := ⟨rfl, rfl, rfl, hw.symm⟩
    obtain ⟨s1, hreads⟩ := runCommands_xsReads hw
    exact ⟨s.xsS.w0, s.xsS.w1, s.xsS.w2, s.xsS.w3, s1, _, hreads,
      transact_encode (exec_xsSeed s.xsS.w0 s.xsS.w1 s.xsS.w2 s.xsS.w3 t) rfl, hrestored.responses_xs hcs⟩

end Sys2Proof.Machine

namespace Sys2Proof.Machine

/-! ## The outcome of every command (R77, R78) -/

/-- Settles O11: the step takes IllegalCommand, which updates the record and the response alone. -/
theorem illegalByteChangesNothing : Obligations.IllegalByteChangesNothing := by
  intro s c rest hin hd
  have hstep : step s = takeIllegal c.op (s.awaiting rest) := (step_of_command hin).trans (runCommand_of_illegal hd _)
  exact ⟨_, hstep, rfl, rfl, rfl, rfl, rfl, rfl, fun hf => by simp [hf], fun f hf => by simp [hf]⟩

/-- An instruction that executes answers OK and drives r exactly where it has a result (R40, R41). -/
theorem exec_response_of_executes {i : Instr} {s t : State} (h : exec i s = .next t)
    (hx : isSeed i = true ∨ s.seeded (genOf i) = true) :
    ∃ r, r.isSome = hasResult i ∧ t.response = some (okResponse r) := by
  obtain ⟨hseed, hw, -⟩ | ⟨-, r, hr, ⟨-, v, he⟩ | ⟨-, q, he⟩⟩ := exec_outcome i s
  · simp [hseed, hw] at hx
  · exact ⟨r, hr, by rw [Host.Outcome.next.inj (h.symm.trans he)]⟩
  · exact ⟨r, hr, by rw [Host.Outcome.next.inj (h.symm.trans he)]⟩

/-- Settles O48: the command's one answer, read in each of the three cases. -/
theorem everyCommandHasOneOutcome : Obligations.EveryCommandHasOneOutcome := by
  refine ⟨rfl, rfl, fun _ => rfl, rfl, rfl, fun c s => ?_⟩
  obtain ⟨resp, t, ht, hresp, hinputs⟩ := runCommand_answers c s
  refine ⟨t, resp, (step_offer c s).trans ht, hresp, hinputs,
    fun hd => ?_, fun i hd hx => ?_, fun i hd hseed hw => ?_⟩
  · obtain rfl := takeIllegal_eq_next (runCommand_of_illegal hd s ▸ ht)
    exact ⟨rfl, (Option.some.inj hresp).symm⟩
  · have hexec : exec i s = .next t := runCommand_of_decode hd s ▸ ht
    obtain ⟨r, hr, hok⟩ := exec_response_of_executes hexec hx
    obtain rfl : okResponse r = resp := Option.some.inj (hok.symm.trans hresp)
    exact ⟨exec_fault_of_executes hexec hx, rfl, hr⟩
  · obtain ⟨u, hu, hun⟩ := exec_unseededAfter hseed hw
    obtain rfl : u = t := by simpa [hu, runCommand_of_decode hd s] using ht
    exact hun

/-! ## The all-zero Xoshiro256+ state (R80) -/

theorem xsStep_zero : xsStep Quad.zero = (Quad.zero, 0) := by decide

theorem toUnitDouble_zero : toUnitDouble 0 = 0 := toUnitDouble_of_cvtMantissa_eq_zero (by decide)

section ZeroState

variable {i : Instr} {q : Quad}

theorem xsEffect_fst_eq_zero (hi : isSeed i = false) (hq : q = Quad.zero) : (xsEffect i q).1 = Quad.zero := by
  cases i with
  | xsSeed a b c e => cases hi
  | xsNext | xsNextDouble =>
    change xsAdvance q = Quad.zero
    rw [hq, xsAdvance_zero]
  | xsJump =>
    change jumpEngine q Config.jumpTable = Quad.zero
    rw [hq, jumpEngine_zero]
  | xsLongJump =>
    change jumpEngine q Config.longJumpTable = Quad.zero
    rw [hq, jumpEngine_zero]
  | _ => exact hq

theorem xsEffect_result_eq_zero (hq : q = Quad.zero) {v : Word} (h : (xsEffect i q).2 = some v) : v = 0 := by
  cases i with
  | xsNext =>
    obtain rfl : (xsStep q).2 = v := Option.some.inj h
    rw [hq, xsStep_zero]
  | xsNextDouble =>
    obtain rfl : toUnitDouble (xsStep q).2 = v := Option.some.inj h
    rw [hq, xsStep_zero, toUnitDouble_zero]
  | xsRead0 | xsRead1 | xsRead2 | xsRead3 =>
    obtain rfl : wordAt q _ = v := Option.some.inj h
    rw [hq]
    rfl
  | _ => cases h

end ZeroState

/-- Settles O52: the step, both jumps and the converter take zero to zero. -/
theorem allZeroStateIsAZeroStream : Obligations.AllZeroStateIsAZeroStream := by
  refine ⟨exec_xsSeed 0 0 0 0, fun i s hi hseed hw hzero => ?_⟩
  exact ⟨_, _, exec_xs_of_seeded hi hw, xsEffect_fst_eq_zero hseed hzero, hw, rfl, rfl, rfl,
    fun v hv => xsEffect_result_eq_zero hzero hv⟩

/-! ## Instances (R34, R82) -/

section Instances

variable {j k : Nat} {sys sys' : System}

/-- A step of instance `k` replaces that instance by its own next state. -/
theorem systemStep_eq_some_iff : systemStep k sys = some sys' ↔
    ∃ s t, sys[k]? = some s ∧ step s = .next t ∧ sys.set k t = sys' := by
  unfold systemStep
  cases hk : sys[k]? with
  | none => simp
  | some s => cases hs : step s <;> simp [hs]

/-- Two steps of different instances can be taken in the other order: neither sees what the other sets. -/
theorem systemStep_bind_swap (hjk : j ≠ k) (h : (systemStep j sys).bind (systemStep k) = some sys') :
    (systemStep k sys).bind (systemStep j) = some sys' := by
  obtain ⟨_, hj, hk⟩ := Option.bind_eq_some_iff.1 h
  obtain ⟨s, t, hs, ht, rfl⟩ := systemStep_eq_some_iff.1 hj
  obtain ⟨s', t', hs', ht', rfl⟩ := systemStep_eq_some_iff.1 hk
  rw [List.getElem?_set_ne hjk] at hs'
  have hfirst : systemStep k sys = some (sys.set k t') := systemStep_eq_some_iff.2 ⟨s', t', hs', ht', rfl⟩
  rw [hfirst, Option.bind_some]
  exact systemStep_eq_some_iff.2 ⟨s, t, (List.getElem?_set_ne hjk.symm).trans hs, ht, List.set_comm t' t hjk.symm⟩

end Instances

/-- Settles O58: a step sets its own place of the list, and sets of different places commute. -/
theorem instancesAreIndependent : Obligations.InstancesAreIndependent := by
  refine ⟨fun k sys sys' h => ?_, fun j k sys hjk =>
    Option.ext fun _ => ⟨systemStep_bind_swap hjk, systemStep_bind_swap hjk.symm⟩⟩
  obtain ⟨s, t, hs, ht, rfl⟩ := systemStep_eq_some_iff.1 h
  exact ⟨List.length_set, fun _ hj => List.getElem?_set_ne hj.symm, s, t, hs, ht,
    List.getElem?_set_self (List.getElem?_eq_some_iff.1 hs).1⟩

end Sys2Proof.Machine

namespace Sys2Proof.Machine

/-! ## Reset assertions (R87, R88) -/

/-- Both forms of reset do the same: reset asserted between commands, and reset that abandons one. -/
theorem step_of_reset {s : State} {rest : List Input}
    (h : s.inputs = .reset :: rest ∨ ∃ c, s.inputs = .resetDuring c :: rest) : step s = .next (s.applyReset rest) := by
  obtain hin | ⟨c, hin⟩ := h
  · simp [step, hin, acceptInput]
  · simp [step, hin, acceptInput]

/-- Settles O12: the step is a reset assertion, whose fields are known but for the state words. -/
theorem resetAssertionClears : Obligations.ResetAssertionClears :=
  fun _ _ hin => ⟨_, step_of_reset hin, rfl, rfl, rfl, rfl⟩

/-! ## When a run from reset has an observation (R89, R95) -/

theorem seeded_genOf (i : Instr) (s : State) : s.seeded (genOf i) = if isSm i then s.smW else s.xsW := by
  cases hi : isSm i with
  | false => simp [genOf, hi, State.seeded]
  | true => simp [genOf, hi, State.seeded]

@[simp] theorem seededFirst_nil (sm xs : Bool) : seededFirst sm xs [] = true := rfl

theorem seededFirst_of_illegal {c : Command} (hd : decode c = none) (sm xs : Bool) (cs : List Command) :
    seededFirst sm xs (c :: cs) = false := by
  simp [seededFirst, hd]

/-- A legal command must be one that executes, and the flags it leaves are those the rest of the list starts from. -/
theorem seededFirst_of_exec {c : Command} {i : Instr} {s t : State} (hd : decode c = some i) (h : exec i s = .next t)
    (cs : List Command) : seededFirst s.smW s.xsW (c :: cs) =
      ((isSeed i || s.seeded (genOf i)) && seededFirst t.smW t.xsW cs) := by
  simp [seededFirst, hd, seeded_genOf, exec_smW h, exec_xsW h]

/-- An instruction leaves no fault on record exactly when none was there and it executes (R20, R26). -/
theorem exec_fault_eq_none_iff {i : Instr} {s t : State} (h : exec i s = .next t) :
    t.fault = none ↔ s.fault = none ∧ (isSeed i || s.seeded (genOf i)) = true := by
  by_cases hx : isSeed i = true ∨ s.seeded (genOf i) = true
  · simp [exec_fault_of_executes h hx, hx]
  · obtain ⟨hseed, hw⟩ : isSeed i = false ∧ s.seeded (genOf i) = false := by simpa using hx
    obtain rfl := takeUnseeded_eq_next (exec_of_unseeded hseed hw ▸ h)
    simp [hseed, hw, keepFirst_ne_none]

theorem runCommand_of_transact {c : Command} {s t : State} {r : Response} (h : transact c s = some (r, t)) :
    runCommand c s = .next t := by
  obtain ⟨r', t', ht, hr, -⟩ := runCommand_answers c s
  obtain ⟨-, rfl⟩ : r' = r ∧ t' = t := by simpa [transact, step_offer, ht, hr] using h
  exact ht

/-- A run leaves no fault on record exactly when none was there and each command is legal and, if it reads a generator's
state, comes after a seed of that generator. -/
theorem runCommands_fault_eq_none_iff {cs : List Command} {s t : State} {rs : List Response}
    (h : runCommands cs s = some (rs, t)) :
    t.fault = none ↔ s.fault = none ∧ seededFirst s.smW s.xsW cs = true := by
  induction cs generalizing s rs with
  | nil =>
    obtain ⟨-, rfl⟩ : [] = rs ∧ s = t := by simpa using h
    simp
  | cons c cs ih =>
    obtain ⟨r, u, hu, -⟩ := transact_answers c s
    obtain ⟨rs', hrest, -⟩ : ∃ rs', runCommands cs u = some (rs', t) ∧ r :: rs' = rs := by
      simpa [runCommands, hu] using h
    rw [ih hrest]
    obtain ⟨hd, rfl⟩ | ⟨i, hd, hex⟩ := runCommand_cases (runCommand_of_transact hu)
    · simp [seededFirst_of_illegal hd, keepFirst_ne_none]
    · rw [exec_fault_eq_none_iff hex, seededFirst_of_exec hd hex, Bool.and_eq_true, and_assoc]

theorem isSome_observationOf (rs : List Response) (s : State) :
    (observationOf rs s).isSome = true ↔ s.fault = none := by
  simp [observationOf]

/-- Settles O54: the run ends, and its record is none at the end exactly when every command was legal and executed. -/
theorem observationExactlyWhenSeededFirst : Obligations.ObservationExactlyWhenSeededFirst := by
  intro cs
  obtain ⟨rs, t, hrun, -, -⟩ := everyCommandListEndsWithAResponseEach cs State.reset
  have hobserve : observe cs = observationOf rs t := by simp [observe, hrun]
  have hfault : t.fault = none ↔ seededFirst false false cs = true :=
    (runCommands_fault_eq_none_iff hrun).trans (and_iff_right rfl)
  rw [Bool.eq_iff_iff, hobserve, isSome_observationOf, hfault]

end Sys2Proof.Machine

namespace Sys2Proof.Machine

/-! ## The model's conventions at the port (R95; notes/assumptions/1.md, 7.md) -/

/-- Settles O10: a table word is offered as a command, the step of an offered command runs it on the state it was
offered to, and a legal command goes on to `exec`. -/
theorem fetchWordRunsNext : Obligations.FetchWordRunsNext :=
  fun s nbits w _ hd => (step_offer (commandOfBits nbits w) s).trans (runCommand_of_decode hd s)

/-- Settles O14: no input is left to accept, so the step takes the model's one stop. -/
theorem stepWithNothingPresentedStops : Obligations.StepWithNothingPresentedStops :=
  fun s hin => by simp [step, hin, noInputPresented]

/-! ## The invariant at reset (R27) -/

/-- Each part of the invariant speaks of a recorded fault or of a pending response. -/
theorem inv_of_no_fault_no_response {s : State} (hf : s.fault = none) (hr : s.response = none) : Inv s where
  recordedByteIllegal _ hop := by simp [hf] at hop
  resultOnlyWhenOk _ hresp := by simp [hr] at hresp
  notOkIsRecorded _ hresp := by simp [hr] at hresp

/-- Settles O50: a reset leaves neither a fault on record nor a response pending. -/
theorem resetMeetsTheInvariant : Obligations.ResetMeetsTheInvariant :=
  inv_of_no_fault_no_response rfl rfl

end Sys2Proof.Machine
